-- ==== Sys2Proof/Word.lean ====
section
/-! DEFINITION. The words of the hardware: a byte, a 32-bit register or command word, a 64-bit code, and
a table with one element for each of the 256 symbols (00_scope.md R7, R8). -/

namespace Sys2Proof

/-- A Symbol or a payload byte: "one byte (0–255)" (00_scope.md R7, R10). -/
abbrev Byte := BitVec 8

/-- A register value, a command word or a count, 32 bits (`COUNT_W`, 00_scope.md R7; 20_memory.md R61). -/
abbrev Word := BitVec 32

/-- A stored code, `CODE_W` = 64 bits (00_scope.md R7), and the counter `out_bits`. -/
abbrev DWord := BitVec 64

/-- An arena index: 9 bits for the 511 entries (30_encoding.md R91). -/
abbrev NodeIdx := BitVec 9

/-- An internal array with one element for each of the `NSYM_MAX` = 256 symbols (00_scope.md R7). -/
abbrev Table (α : Type) := Vector α 256

end Sys2Proof
end

