-- ==== Sys2Proof/Config.lean ====
section
/-! DEFINITION. The parameters of 00_scope.md R7 and the free value of 20_memory.md R66. -/

namespace Sys2Proof

/-- `CODE_W`: width of a stored code, the longest code the block can emit (00_scope.md R7). -/
def codeWidth : Nat := 64

/-- `COUNT_W`: width of every frequency, node weight, TOTAL and ENC_COUNT (00_scope.md R7). -/
def countWidth : Nat := 32

/-- The OPEN parameters of 00_scope.md R7. They are no state (10_state.md R22): State carries them because
`step` has no other argument, and no step changes them. DESIGN CHOICE (notes/assumptions/1.md): safe. -/
structure Params where
  /-- `OFIFO_DEPTH`, the capacity of the output FIFO in bytes. -/
  ofifoDepth : BitVec 16
  /-- `HENC_BASE`, the bus address of the register window. -/
  hencBase : Nat
  deriving DecidableEq, Repr

/-- The range 00_scope.md R7 gives the OPEN parameters: `OFIFO_DEPTH` in 8..65535 (the upper bound is the
type's) and `HENC_BASE` aligned to 256 bytes. -/
abbrev Params.legal (p : Params) : Prop := 8 ≤ p.ofifoDepth.toNat ∧ p.hencBase % 256 = 0

/-- `OFIFO_DEPTH` = 16 is the spec's reference value (00_scope.md R7). `HENC_BASE` = 0 is a
DESIGN CHOICE (notes/assumptions/1.md): unsafe for a claim about `State.reset` that names an address. -/
def Params.reference : Params := { ofifoDepth := 16#16, hencBase := 0 }

/-- The free value of 20_memory.md R66: a read while busy of a register whose value is unspecified returns
"a draw, with no side effect". The argument is State's counter `draws`, so each read has a draw of its own.
It has no body, so nothing can be proved of its value. DESIGN CHOICE of form (notes/assumptions/4.md): safe. -/
opaque Config.drawnWord : Nat → Word

end Sys2Proof
end

