-- ==== Sys2Proof/Syntax.lean ====
section
/-! DEFINITION. The ten commands of the HENC command set, one constructor for each row of
spec/opcode_table.json (30_encoding.md R93), with the operand of its form (R91). -/

namespace Sys2Proof

/-- A command with its operand (30_encoding.md R93). The operand's type is its field: a Symbol is `w[7:0]`,
an arena index `w[8:0]` (R91), so every term is a command the encoding can hold. -/
inductive Instr where
  | nop
  | clear
  | push (sym : Byte)
  | rdfreq (sym : Byte)
  | build
  | rdnode (idx : NodeIdx)
  | canon
  | lookup (sym : Byte)
  | enc (sym : Byte)
  | flush
  deriving DecidableEq, Repr

/-- The operand forms of 30_encoding.md R91. -/
inductive Form where
  /-- no operand: IMM16 must be zero -/
  | N
  /-- `sym` = w[7:0]: bits 15:8 must be zero -/
  | S
  /-- `idx` = w[8:0]: bits 15:9 must be zero -/
  | I
  deriving DecidableEq, Repr

end Sys2Proof
end

