-- ==== Sys2Proof/Machine/State.lean ====
section
/-! DEFINITION. The state of the block (10_state.md R22), the turns of its agents (R20), the reasons a step
stops, and the state after reset (R50). Plain data throughout. -/

namespace Sys2Proof.Machine

/-- The sequencing state (10_state.md R31). -/
inductive Phase where
  | hist | tree | codes | done
  deriving DecidableEq, Repr

/-- The result codes 0 to 7 of 60_exceptions.md R200. Codes 8 to 15 are "never produced". -/
inductive Code where
  /-- 0, the command succeeded -/
  | ok
  /-- 1, E_BADCMD -/
  | badCmd
  /-- 2, E_PHASE -/
  | phase
  /-- 3, E_RANGE -/
  | range
  /-- 4, E_NOCODE -/
  | noCode
  /-- 5, E_CAPACITY -/
  | capacity
  /-- 6, E_OFULL -/
  | oFull
  /-- 7, E_BUSY: a host write while busy, never the result of a command (10_state.md R33) -/
  | busy
  deriving DecidableEq, Repr

/-- The two kinds of arena entry (10_state.md R41). -/
inductive NodeKind where
  | leaf | internal
  deriving DecidableEq, Repr

/-- One arena entry, with the fields of 10_state.md R41. -/
structure Node where
  kind : NodeKind
  w : Word
  /-- meaningful for a leaf -/
  sym : Byte
  /-- meaningful for an internal node -/
  left : NodeIdx
  /-- meaningful for an internal node -/
  right : NodeIdx
  /-- the distance from the root; never observable (R46) -/
  depth : Byte
  deriving DecidableEq, Repr

/-- The direction of a host access, with the value a write carries. -/
inductive Direction where
  | read
  | write (v : Word)
  deriving DecidableEq, Repr

/-- A bus access as the host makes it. `size` is its width in bytes, and `full` says that every byte lane of
it is enabled. Only aligned accesses of 4 full bytes inside the window are defined (20_memory.md R62). -/
structure Access where
  dir : Direction
  addr : Nat
  size : Nat
  full : Bool
  deriving DecidableEq, Repr

/-- Who moves next (10_state.md R20). -/
inductive Turn where
  /-- the Host makes one access (20_memory.md R62) -/
  | host (a : Access)
  /-- the Engine's turn: it completes the pending command, if there is one (40_control.md R111) -/
  | engine
  /-- the Reset event (70_reset_and_hazards.md R220) -/
  | reset
  /-- an access by a second bus master (60_exceptions.md R211) -/
  | otherMaster (a : Access)
  deriving DecidableEq, Repr

/-- The state. Every field down to `outBits` is one of the record of 10_state.md R22; `busy` and `nnodes` of that
record are the functions `State.busy` and `State.nnodes` below. The fields after it are the model's own. -/
structure State where
  phase : Phase
  /-- the pending command word; `none` exactly when `busy` = 0 (R32: "When `busy` = 0, the value of `cmdq` is
  unobservable"). DESIGN CHOICE (notes/assumptions/7.md): safe. -/
  cmdq : Option Word
  lastErr : Code
  /-- bits 7:1 of ERR_FLAGS (R27): code `k` is bit `k - 1` here -/
  errFlags : BitVec 7
  res0 : Word
  res1 : Word
  res2 : Word
  total : Word
  nsym : BitVec 9
  freq : Table Word
  /-- the valid arena entries 0 .. `nnodes` - 1, in order; the others are unobservable (R41).
  DESIGN CHOICE (notes/assumptions/7.md): safe. -/
  node : List Node
  root : NodeIdx
  maxlen : Byte
  len : Table Byte
  code : Table DWord
  acc : BitVec 7
  accN : BitVec 3
  /-- the output FIFO, head first (R45) -/
  ofifo : List Byte
  encCount : Word
  outBits : DWord
  /-- the OPEN parameters (00_scope.md R7); no step changes them (notes/assumptions/1.md) -/
  params : Params
  /-- the turns to come, first one first (notes/assumptions/2.md) -/
  turns : List Turn
  /-- the value the last host read returned (notes/assumptions/5.md) -/
  rdata : Word
  /-- the job's payload so far: the bytes the host has read from OUT_DATA with bit 8 = 1 since the last reset or
  CLEAR, in order (70_reset_and_hazards.md R229; notes/assumptions/6.md) -/
  payload : List Byte
  /-- how many free values have been drawn (notes/assumptions/4.md) -/
  draws : Nat
  deriving DecidableEq, Repr

/-- `busy` of 10_state.md R22 and R32: a command is issued and not completed. -/
def State.busy (s : State) : Bool := s.cmdq.isSome

/-- `nnodes` of 10_state.md R22 and R30: the number of valid arena entries. -/
def State.nnodes (s : State) : Nat := s.node.length

/-- Why the machine stops with a fault. -/
inductive Fault where
  /-- Raised by a host access that is not an aligned 32-bit access inside the window: "refused by the model as a
  host fault `HOST_BAD_ACCESS`, naming the access" (20_memory.md R62). Safe (notes/assumptions/8.md). -/
  | hostBadAccess (a : Access)
  deriving DecidableEq, Repr

/-- Why the model has no meaning for a step. -/
inductive Refusal where
  /-- Raised by an arm of `exec` that has no meaning. No arm is left so. Safe. -/
  | notModelled (mnemonic : String)
  /-- Raised by an access of a second bus master: "Accesses to one instance by two masters are outside this spec,
  and a model refuses them" (60_exceptions.md R211). Safe (notes/assumptions/9.md). -/
  | secondMaster (a : Access)
  deriving DecidableEq, Repr

/-- The state right after reset (10_state.md R50). The fields from `params` on are the model's own: their values are
DESIGN CHOICE (notes/assumptions/1.md, 2.md, 4.md, 5.md, 6.md). -/
def State.reset : State where
  phase := .hist
  cmdq := none
  lastErr := .ok
  errFlags := 0#7
  res0 := 0#32
  res1 := 0#32
  res2 := 0#32
  total := 0#32
  nsym := 0#9
  freq := Vector.replicate 256 0#32
  node := []
  root := 0#9
  maxlen := 0#8
  len := Vector.replicate 256 0#8
  code := Vector.replicate 256 0#64
  acc := 0#7
  accN := 0#3
  ofifo := []
  encCount := 0#32
  outBits := 0#64
  params := Params.reference
  turns := []
  rdata := 0#32
  payload := []
  draws := 0

end Sys2Proof.Machine
end

