-- ==== Sys2Proof/Machine/Flags.lean ====
section
/-! DEFINITION. The flags the host can read (10_state.md R36): the codes of 60_exceptions.md R200, the sticky bits of
ERR_FLAGS (10_state.md R27) and the fields of STATUS (R26). No command reads a flag as an operand (R36). -/

namespace Sys2Proof.Machine

/-- The number of a result code (60_exceptions.md R200), as LAST_ERR shows it. -/
def codeNum : Code → BitVec 4
  | .ok => 0#4
  | .badCmd => 1#4
  | .phase => 2#4
  | .range => 3#4
  | .noCode => 4#4
  | .capacity => 5#4
  | .oFull => 6#4
  | .busy => 7#4

/-- The sticky bit of code `k` in 1..7 (10_state.md R27), bit `k - 1` of the field; code 0 has none. -/
def errBit : Code → BitVec 7
  | .ok => 0b0000000#7
  | .badCmd => 0b0000001#7
  | .phase => 0b0000010#7
  | .range => 0b0000100#7
  | .noCode => 0b0001000#7
  | .capacity => 0b0010000#7
  | .oFull => 0b0100000#7
  | .busy => 0b1000000#7

/-- `err_flags[e] <- 1` (40_control.md R112). -/
def setErrFlag (e : Code) (flags : BitVec 7) : BitVec 7 := flags ||| errBit e

/-- `err_flags[k] <- err_flags[k] AND NOT v[k]` for `k` in 1..7 (20_memory.md R64). -/
def clearErrFlags (v : Word) (flags : BitVec 7) : BitVec 7 := flags &&& ~~~(v.extractLsb' 1 7)

/-- ERR_FLAGS as it reads: bits 7:1 the flags, bits 0 and 31:8 zero (10_state.md R27). -/
def errFlagsWord (s : State) : Word := s.errFlags.setWidth 32 <<< 1

/-- PHASE as STATUS encodes it (10_state.md R26). -/
def phaseNum : Phase → BitVec 2
  | .hist => 0#2
  | .tree => 1#2
  | .codes => 2#2
  | .done => 3#2

/-- OUT_NONEMPTY (10_state.md R26). -/
def outNonempty (s : State) : Bool := decide (0 < s.ofifo.length)

/-- OUT_FULL (10_state.md R26). -/
def outFull (s : State) : Bool := decide (s.ofifo.length = s.params.ofifoDepth.toNat)

/-- STATUS, field by field from bit 31 down to bit 0 (10_state.md R26). -/
def statusWord (s : State) : Word :=
  BitVec.ofNat 16 s.ofifo.length ++ 0#2 ++ BitVec.ofBool (outFull s) ++ BitVec.ofBool (outNonempty s) ++ 0#1 ++
    s.accN ++ codeNum s.lastErr ++ 0#1 ++ phaseNum s.phase ++ BitVec.ofBool s.busy

end Sys2Proof.Machine
end

