-- ==== Sys2Proof/Machine/Operands.lean ====
section
/-! DEFINITION. The operand forms of 30_encoding.md R91 as the machine uses them: a Symbol selects an element of an
internal array (00_scope.md R9), an arena index an arena entry. -/

namespace Sys2Proof.Machine

/-- `A[sym]`: element `sym` of an internal array (00_scope.md R9), form S of 30_encoding.md R91. -/
def readSym {α : Type} (t : Table α) (sym : Byte) : α := t.get sym.toFin

/-- `A[sym] <- v` (00_scope.md R9). -/
def writeSym {α : Type} (t : Table α) (sym : Byte) (v : α) : Table α :=
  t.set sym.toNat v sym.isLt

/-- `node[idx]`, form I of 30_encoding.md R91, `none` when `idx` ≥ `nnodes` (10_state.md R41). -/
def readNode (s : State) (idx : NodeIdx) : Option Node := s.node[idx.toNat]?

/-- The symbols 0, 1, …, 255 in ascending order, as the loops of 42_tree_builder.md R141 and 43_canonical.md R161
run over them. -/
def symbols : List Byte := (List.range 256).map (BitVec.ofNat 8)

/-- The symbols in ascending order, each with its element of an internal array: what a loop "for s in 0..255" over `A[s]`
runs over. -/
def entries {α : Type} (t : Table α) : List (Byte × α) := symbols.zip t.toList

/-- An internal array with the same value for every symbol. -/
def constTable {α : Type} (v : α) : Table α := Vector.replicate 256 v

end Sys2Proof.Machine
end

