-- ==== Sys2Proof/Machine/Ops.lean ====
section
/-! DEFINITION. The operations every command shares: phase legality (40_control.md R113), the execution frame (R112),
failing with an error code (60_exceptions.md R203), and the output FIFO (10_state.md R45). -/

namespace Sys2Proof.Machine

/-- `fail(e)` of 40_control.md R112, the block's equivalent of taking an exception (60_exceptions.md R203): it writes
`last_err` and one sticky bit and nothing else. The third field R203 names, `busy`, is cleared by the completion
around every command (40_control.md R111; Machine/Engine.lean). There is no return: "nothing is entered" (R206). -/
def fail (e : Code) (s : State) : State :=
  { s with lastErr := e, errFlags := setErrFlag e s.errFlags }

/-- `last_err <- 0` after the commit of a command's writes (40_control.md R112). -/
def succeed (s : State) : State := { s with lastErr := .ok }

/-- `Legal(c)`: the phases in which command `c` may run (40_control.md R113). -/
def legal (c : Instr) (p : Phase) : Bool :=
  match c, p with
  | .nop, _ => true
  | .clear, _ => true
  | .push _, .hist => true
  | .push _, _ => false
  | .rdfreq _, _ => true
  | .build, .hist => true
  | .build, _ => false
  | .rdnode _, .hist => false
  | .rdnode _, _ => true
  | .canon, .tree => true
  | .canon, _ => false
  | .lookup _, .codes => true
  | .lookup _, .done => true
  | .lookup _, _ => false
  | .enc _, .codes => true
  | .enc _, _ => false
  | .flush, .codes => true
  | .flush, _ => false

/-- The execution frame of 40_control.md R112 after decoding: the phase check, then the body on a copy of the state,
whose writes are committed with `last_err <- 0` if it finishes and discarded if it raises an error. -/
def execute (c : Instr) (body : State → Except Code State) (s : State) : Host.Outcome State Fault Refusal :=
  if legal c s.phase then
    match body s with
    | .ok s' => .next (succeed s')
    | .error e => .next (fail e s)
  else .next (fail .phase s)

/-- `push_out(b)` for each byte of a list, in order: at the tail of the output FIFO (00_scope.md R9). -/
def pushOut (bs : List Byte) (s : State) : State := { s with ofifo := s.ofifo ++ bs }

/-- The free bytes of the output FIFO, `OFIFO_DEPTH - len(ofifo)` (44_lookup_encode.md R171). -/
def fifoSpace (s : State) : Nat := s.params.ofifoDepth.toNat - s.ofifo.length

/-- The three result registers (10_state.md R28). -/
def setResults (r0 r1 r2 : Word) (s : State) : State := { s with res0 := r0, res1 := r1, res2 := r2 }

end Sys2Proof.Machine
end

