-- ==== Sys2Proof/Machine/Bus.lean ====
section
/-! DEFINITION. The register window: the register map (20_memory.md R61), what a read returns (R63, R65, R66), what a
write does (R64, R66), and which accesses are defined (R62); and the Reset event (70_reset_and_hazards.md R220). -/

namespace Sys2Proof.Machine

/-- The registers of the map of 20_memory.md R61. -/
inductive Reg where
  | id | version | config | cmd | status | errFlags | res0 | res1 | res2 | total | nsym | treeInfo | encCount
  | outBitsLo | outBitsHi | outData | maxlen
  /-- 0x44–0xFC: reads 0, writes ignored (R63) -/
  | reserved
  deriving DecidableEq, Repr

/-- The register at a byte offset of the window (20_memory.md R61). -/
def regAt (off : Nat) : Reg :=
  match off with
  | 0x00 => .id
  | 0x04 => .version
  | 0x08 => .config
  | 0x0C => .cmd
  | 0x10 => .status
  | 0x14 => .errFlags
  | 0x18 => .res0
  | 0x1C => .res1
  | 0x20 => .res2
  | 0x24 => .total
  | 0x28 => .nsym
  | 0x2C => .treeInfo
  | 0x30 => .encCount
  | 0x34 => .outBitsLo
  | 0x38 => .outBitsHi
  | 0x3C => .outData
  | 0x40 => .maxlen
  | _ => .reserved

/-- The offset of a defined access: aligned, 4 full bytes, inside the window (20_memory.md R62). -/
def definedOffset (p : Params) (a : Access) : Option Nat :=
  if a.size = 4 ∧ a.full = true ∧ p.hencBase ≤ a.addr ∧ a.addr < p.hencBase + 256 ∧ (a.addr - p.hencBase) % 4 = 0
  then some (a.addr - p.hencBase) else none

/-- ID, "HENC" (10_state.md R24). -/
def idWord : Word := 0x48454E43#32

/-- VERSION, MAJOR 1 and MINOR 0 (10_state.md R24). -/
def versionWord : Word := 0x00010000#32

/-- CONFIG: COUNT_W, CODE_W and OFIFO_DEPTH (10_state.md R24). -/
def configWord (p : Params) : Word :=
  BitVec.ofNat 8 countWidth ++ BitVec.ofNat 8 codeWidth ++ p.ofifoDepth

/-- ROOT_VALID (10_state.md R30). -/
def rootValid (s : State) : Bool := decide (0 < s.nnodes)

/-- TREEINFO, field by field from bit 31 down (10_state.md R30). -/
def treeInfoWord (s : State) : Word :=
  BitVec.ofBool (rootValid s) ++ 0#6 ++ (if 0 < s.nnodes then s.root else 0#9) ++ 0#6 ++ BitVec.ofNat 10 s.nnodes

/-- What a register holds while `busy` = 0, read without a side effect (20_memory.md R63; 10_state.md R24 to R34). -/
def regWord (s : State) : Reg → Word
  | .id => idWord
  | .version => versionWord
  | .config => configWord s.params
  | .cmd => 0#32
  | .status => statusWord s
  | .errFlags => errFlagsWord s
  | .res0 => s.res0
  | .res1 => s.res1
  | .res2 => s.res2
  | .total => s.total
  | .nsym => s.nsym.setWidth 32
  | .treeInfo => treeInfoWord s
  | .encCount => s.encCount
  | .outBitsLo => s.outBits.extractLsb' 0 32
  | .outBitsHi => s.outBits.extractLsb' 32 32
  | .outData => 0#32
  | .maxlen => s.maxlen.setWidth 32
  | .reserved => 0#32

/-- The read of OUT_DATA while `busy` = 0 (20_memory.md R65): the head with VALID = bit 8, removed from the FIFO, or 0
and no change. The host keeps each valid byte: it is the job's payload (70_reset_and_hazards.md R229). -/
def popOutData (s : State) : Word × State :=
  match s.ofifo with
  | [] => (0#32, s)
  | b :: rest => ((1#1 ++ b).setWidth 32, { s with ofifo := rest, payload := s.payload ++ [b] })

/-- The free value the next draw gives (20_memory.md R66). -/
def nextDraw (s : State) : Word := Config.drawnWord s.draws

/-- A read while `busy` = 1 (20_memory.md R66): constants, zeros without a side effect, STATUS with bit 0 = 1 and its
other bits drawn, and a drawn value for every other register. -/
def readBusy (r : Reg) (s : State) : Word × State :=
  match r with
  | .id => (idWord, s)
  | .version => (versionWord, s)
  | .config => (configWord s.params, s)
  | .cmd => (0#32, s)
  | .outData => (0#32, s)
  | .reserved => (0#32, s)
  | .status => (nextDraw s ||| 1#32, { s with draws := s.draws + 1 })
  | .errFlags => (nextDraw s, { s with draws := s.draws + 1 })
  | .res0 => (nextDraw s, { s with draws := s.draws + 1 })
  | .res1 => (nextDraw s, { s with draws := s.draws + 1 })
  | .res2 => (nextDraw s, { s with draws := s.draws + 1 })
  | .total => (nextDraw s, { s with draws := s.draws + 1 })
  | .nsym => (nextDraw s, { s with draws := s.draws + 1 })
  | .treeInfo => (nextDraw s, { s with draws := s.draws + 1 })
  | .encCount => (nextDraw s, { s with draws := s.draws + 1 })
  | .outBitsLo => (nextDraw s, { s with draws := s.draws + 1 })
  | .outBitsHi => (nextDraw s, { s with draws := s.draws + 1 })
  | .maxlen => (nextDraw s, { s with draws := s.draws + 1 })

/-- A read while `busy` = 0 (20_memory.md R63, R65). -/
def readIdle (r : Reg) (s : State) : Word × State :=
  match r with
  | .outData => popOutData s
  | _ => (regWord s r, s)

/-- A host read of a register: its value goes to the host, which `rdata` shows. -/
def readReg (r : Reg) (s : State) : State :=
  let p := if s.busy then readBusy r s else readIdle r s
  { p.2 with rdata := p.1 }

/-- Issue (40_control.md R110): the word is not decoded. -/
def issue (w : Word) (s : State) : State := { s with cmdq := some w }

/-- A busy violation (60_exceptions.md R204): `err_flags[7]` is set and nothing else changes. -/
def busyViolation (s : State) : State := { s with errFlags := setErrFlag .busy s.errFlags }

/-- A host write of a register (20_memory.md R63, R64, R66). -/
def writeReg (r : Reg) (v : Word) (s : State) : State :=
  match r with
  | .cmd => if s.busy then busyViolation s else issue v s
  | .errFlags => if s.busy then busyViolation s else { s with errFlags := clearErrFlags v s.errFlags }
  | _ => s

/-- One host access: a defined one reads or writes its register, any other is a host fault (20_memory.md R62). -/
def hostAccess (a : Access) (s : State) : Host.Outcome State Fault Refusal :=
  match definedOffset s.params a with
  | none => .fault (.hostBadAccess a)
  | some off =>
    match a.dir with
    | .read => .next (readReg (regAt off) s)
    | .write v => .next (writeReg (regAt off) v s)

/-- The Reset event (70_reset_and_hazards.md R220): every field of 10_state.md R50 at its reset value, a pending command
discarded. The parameters, the turns to come, the host's last read and the draw counter are no state of the block and
stay; the payload is "since the last reset or CLEAR" (R229). -/
def resetEvent (s : State) : State :=
  { State.reset with params := s.params, turns := s.turns, rdata := s.rdata, draws := s.draws }

end Sys2Proof.Machine
end

