-- ==== Sys2Proof/WellFormed.lean ====
section
/-! DEFINITION. When a command word is well-formed (30_encoding.md R92), field by field: OP is in the table,
RSV is zero, the must-be-zero bits of the form are zero. What the completion does with a word that is not
well-formed is Machine/Engine.lean's. -/

namespace Sys2Proof

/-- OP, bits 31:24 of a command word (30_encoding.md R90). -/
def opField (w : Word) : Byte := w.extractLsb' 24 8

/-- RSV, bits 23:16 (30_encoding.md R90). -/
def rsvField (w : Word) : Byte := w.extractLsb' 16 8

/-- IMM16, bits 15:0 (30_encoding.md R90). -/
def imm16Field (w : Word) : BitVec 16 := w.extractLsb' 0 16

/-- The form of the opcodes of 30_encoding.md R93, `none` for an opcode that is not in its table. -/
def formOf (op : Byte) : Option Form :=
  match op.toNat with
  | 0x00 => some .N
  | 0x01 => some .N
  | 0x10 => some .S
  | 0x11 => some .S
  | 0x20 => some .N
  | 0x21 => some .I
  | 0x30 => some .N
  | 0x40 => some .S
  | 0x41 => some .S
  | 0x42 => some .N
  | _ => none

/-- The first check of R92: OP is in R93's table. -/
def opDefined (w : Word) : Bool := (formOf (opField w)).isSome

/-- The second check of R92: RSV = 0. -/
def rsvZero (w : Word) : Bool := rsvField w = 0#8

/-- The third check of R92: the must-be-zero bits of the form (R91) are 0. -/
def operandFits (f : Form) (w : Word) : Bool :=
  match f with
  | .N => imm16Field w = 0#16
  | .S => (imm16Field w).extractLsb' 8 8 = 0#8
  | .I => (imm16Field w).extractLsb' 9 7 = 0#7

/-- A well-formed command word (30_encoding.md R92). -/
def wellFormed (w : Word) : Bool :=
  match formOf (opField w) with
  | none => false
  | some f => rsvZero w && operandFits f w

end Sys2Proof
end

