-- ==== Sys2Proof/Decode.lean ====
section
/-! DEFINITION. Decoding a command word by the table's match and mask (30_encoding.md R93, R96), and the
encoder written from the same table (R97). Both are total. A command is one 32-bit word (R90, R95) and is
moved whole, so no byte order is involved (20_memory.md R69). -/

namespace Sys2Proof

/-- What 30_encoding.md R96 answers: a command, or BADCMD. -/
inductive Decoded where
  | command (i : Instr)
  /-- the word is not well-formed: it completes with E_BADCMD (R94) -/
  | badCmd
  deriving DecidableEq, Repr

/-- `w[31:24]`, the OP field the decoder reads (30_encoding.md R90, R96). -/
def opcodeOf (w : Word) : Byte := w.extractLsb' 24 8

/-- `w[7:0]`, the operand of form S (30_encoding.md R91). -/
def symOperand (w : Word) : Byte := w.extractLsb' 0 8

/-- `w[8:0]`, the operand of form I (30_encoding.md R91). -/
def idxOperand (w : Word) : NodeIdx := w.extractLsb' 0 9

/-- A row of 30_encoding.md R93: match and mask of its words, and the command with the operand of its form. -/
structure Row where
  op : Byte
  form : Form
  pattern : Word
  mask : Word
  command : Word → Instr

/-- The opcode map, row by row (30_encoding.md R93). -/
def opcodeTable : List Row :=
  [ { op := 0x00#8, form := .N, pattern := 0x00000000#32, mask := 0xFFFFFFFF#32, command := fun _ => .nop },
    { op := 0x01#8, form := .N, pattern := 0x01000000#32, mask := 0xFFFFFFFF#32, command := fun _ => .clear },
    { op := 0x10#8, form := .S, pattern := 0x10000000#32, mask := 0xFFFFFF00#32,
      command := fun w => .push (symOperand w) },
    { op := 0x11#8, form := .S, pattern := 0x11000000#32, mask := 0xFFFFFF00#32,
      command := fun w => .rdfreq (symOperand w) },
    { op := 0x20#8, form := .N, pattern := 0x20000000#32, mask := 0xFFFFFFFF#32, command := fun _ => .build },
    { op := 0x21#8, form := .I, pattern := 0x21000000#32, mask := 0xFFFFFE00#32,
      command := fun w => .rdnode (idxOperand w) },
    { op := 0x30#8, form := .N, pattern := 0x30000000#32, mask := 0xFFFFFFFF#32, command := fun _ => .canon },
    { op := 0x40#8, form := .S, pattern := 0x40000000#32, mask := 0xFFFFFF00#32,
      command := fun w => .lookup (symOperand w) },
    { op := 0x41#8, form := .S, pattern := 0x41000000#32, mask := 0xFFFFFF00#32,
      command := fun w => .enc (symOperand w) },
    { op := 0x42#8, form := .N, pattern := 0x42000000#32, mask := 0xFFFFFFFF#32, command := fun _ => .flush } ]

/-- The decode function of 30_encoding.md R96: the row of the word's OP, then that row's mask and match. -/
def decode (w : Word) : Decoded :=
  match opcodeTable.find? (fun r => r.op == opcodeOf w) with
  | none => .badCmd
  | some r => if w &&& r.mask = r.pattern then .command (r.command w) else .badCmd

/-- The word of a command: "`match OR v`" with `v` its operand (30_encoding.md R97). -/
def encode : Instr → Word
  | .nop => 0x00000000#32
  | .clear => 0x01000000#32
  | .push sym => 0x10000000#32 ||| sym.setWidth 32
  | .rdfreq sym => 0x11000000#32 ||| sym.setWidth 32
  | .build => 0x20000000#32
  | .rdnode idx => 0x21000000#32 ||| idx.setWidth 32
  | .canon => 0x30000000#32
  | .lookup sym => 0x40000000#32 ||| sym.setWidth 32
  | .enc sym => 0x41000000#32 ||| sym.setWidth 32
  | .flush => 0x42000000#32

/-- The command word whose low `nbits` bits are those of `w` and whose bits above are zero. -/
def tableWord (nbits w : Nat) : Word := BitVec.ofNat 32 (w % 2 ^ nbits)

/-- The command the decoder reads from a row's word, bit 0 being bit 0 of the command word; `none` for
BADCMD, and for more than 32 bits, which no command has (30_encoding.md R95). -/
def decodeTableWord (nbits w : Nat) : Option Instr :=
  if 32 < nbits then none
  else match decode (tableWord nbits w) with
    | .command i => some i
    | .badCmd => none

end Sys2Proof
end

