-- ==== Sys2Proof/Machine/Canonical.lean ====
section
/-! DEFINITION. The canonical code generator: CANON (43_canonical.md R160 to R163). `bl_count` and `next_code` exist
only inside the completion (R161); their arithmetic is on unbounded naturals (00_scope.md R8). -/

namespace Sys2Proof.Machine

/-- `bl_count[l]`: how many symbols have length `l`, for `l` > 0 (43_canonical.md R161). -/
def blCount (len : Table Byte) (l : Nat) : Nat :=
  if l = 0 then 0 else (entries len).countP fun p => p.2.toNat == l

/-- The value of `c` after round `l` of the loop of 43_canonical.md R161, the first code of length `l`. -/
def firstCode (len : Table Byte) : Nat → Nat
  | 0 => 0
  | l + 1 => (firstCode len l + blCount len l) <<< 1

/-- One round of the assignment loop of 43_canonical.md R161 on the pair (`code`, `next_code`), for the symbol
`p.1` of length `p.2`. -/
def assignRound (st : Table DWord × List Nat) (p : Byte × Byte) : Table DWord × List Nat :=
  let l := p.2.toNat
  if l = 0 then st
  else (writeSym st.1 p.1 (BitVec.ofNat 64 (st.2.getD l 0)), st.2.set l (st.2.getD l 0 + 1))

/-- The canonical assignment of 43_canonical.md R161, on a `code` array of zeros (R160). -/
def canonicalCodes (len : Table Byte) (maxlen : Nat) : Table DWord :=
  ((entries len).foldl assignRound (constTable 0#64, (List.range (maxlen + 1)).map (firstCode len))).1

/-- `Body(CANON)` (43_canonical.md R160). -/
def bodyCanon (s : State) : Except Code State :=
  if codeWidth < s.maxlen.toNat then .error .capacity
  else .ok { s with code := canonicalCodes s.len s.maxlen.toNat, phase := .codes }

/-- CANON (43_canonical.md R160). -/
def execCanon (s : State) : Host.Outcome State Fault Refusal := execute .canon bodyCanon s

end Sys2Proof.Machine
end

