-- ==== Sys2Proof/Machine/Control.lean ====
section
/-! DEFINITION. The control commands NOP and CLEAR (40_control.md R115, R116). -/

namespace Sys2Proof.Machine

/-- `Body(NOP) = skip` (40_control.md R115). -/
def bodyNop (s : State) : Except Code State := .ok s

/-- NOP (40_control.md R115). -/
def execNop (s : State) : Host.Outcome State Fault Refusal := execute .nop bodyNop s

/-- The writes of CLEAR (40_control.md R116): every field of 10_state.md R50 but `err_flags` and the pending command.
`payload` is "since the last reset or CLEAR" (70_reset_and_hazards.md R229). -/
def clearState (s : State) : State :=
  { s with
    phase := .hist
    freq := constTable 0#32
    len := constTable 0#8
    code := constTable 0#64
    total := 0#32
    nsym := 0#9
    node := []
    root := 0#9
    maxlen := 0#8
    acc := 0#7
    accN := 0#3
    ofifo := []
    encCount := 0#32
    outBits := 0#64
    res0 := 0#32
    res1 := 0#32
    res2 := 0#32
    payload := [] }

/-- `Body(CLEAR)` (40_control.md R116). -/
def bodyClear (s : State) : Except Code State := .ok (clearState s)

/-- CLEAR (40_control.md R116). -/
def execClear (s : State) : Host.Outcome State Fault Refusal := execute .clear bodyClear s

end Sys2Proof.Machine
end

