-- ==== Sys2Proof/Machine/Histogram.lean ====
section
/-! DEFINITION. The frequency histogram: PUSH and RDFREQ (41_histogram.md R130, R131). Counts are stored at their
registers' widths; no sum exceeds its width in a state a run reaches (00_scope.md R8; notes/assumptions/11.md). -/

namespace Sys2Proof.Machine

/-- The writes of a PUSH that counts (41_histogram.md R130). -/
def countSymbol (sym : Byte) (s : State) : State :=
  { s with
    nsym := if readSym s.freq sym = 0#32 then s.nsym + 1#9 else s.nsym
    freq := writeSym s.freq sym (readSym s.freq sym + 1#32)
    total := s.total + 1#32 }

/-- `Body(PUSH sym)` (41_histogram.md R130). -/
def bodyPush (sym : Byte) (s : State) : Except Code State :=
  if s.total = 0xFFFFFFFF#32 then .error .capacity else .ok (countSymbol sym s)

/-- PUSH (41_histogram.md R130). -/
def execPush (sym : Byte) (s : State) : Host.Outcome State Fault Refusal := execute (.push sym) (bodyPush sym) s

/-- `Body(RDFREQ sym)` (41_histogram.md R131). -/
def bodyRdfreq (sym : Byte) (s : State) : Except Code State :=
  .ok (setResults (readSym s.freq sym) 0#32 0#32 s)

/-- RDFREQ (41_histogram.md R131). -/
def execRdfreq (sym : Byte) (s : State) : Host.Outcome State Fault Refusal :=
  execute (.rdfreq sym) (bodyRdfreq sym) s

end Sys2Proof.Machine
end

