-- ==== Sys2Proof/Machine/LookupEncode.lean ====
section
/-! DEFINITION. Symbol-to-code lookup, the encode pass and the bit packer: LOOKUP, ENC and FLUSH
(44_lookup_encode.md R170, R171, R174). -/

namespace Sys2Proof.Machine

/-- `Body(LOOKUP sym)` (44_lookup_encode.md R170). -/
def bodyLookup (sym : Byte) (s : State) : Except Code State :=
  .ok (setResults ((readSym s.code sym).extractLsb' 0 32) ((readSym s.code sym).extractLsb' 32 32)
    ((readSym s.len sym).setWidth 32) s)

/-- LOOKUP (44_lookup_encode.md R170). -/
def execLookup (sym : Byte) (s : State) : Host.Outcome State Fault Refusal :=
  execute (.lookup sym) (bodyLookup sym) s

/-- What `Pack(c, l)` does to the bit packer (44_lookup_encode.md R172). -/
structure Packed where
  bytes : List Byte
  acc : Nat
  accN : Nat
  deriving DecidableEq, Repr

/-- `Pack(c, l)` on the pending bits `acc` and their number `accN` (44_lookup_encode.md R172). -/
def pack (acc accN c l : Nat) : Packed :=
  let t := accN + l
  let v := acc * 2 ^ l + c % 2 ^ l
  { bytes := (List.range (t / 8)).map fun k => BitVec.ofNat 8 (v >>> (t - 8 * (k + 1)))
    acc := v % 2 ^ (t % 8)
    accN := t % 8 }

/-- `Pack(code[sym], l)` on the state (44_lookup_encode.md R172). -/
def packCode (c : DWord) (l : Nat) (s : State) : State :=
  let p := pack s.acc.toNat s.accN.toNat c.toNat l
  pushOut p.bytes { s with acc := BitVec.ofNat 7 p.acc, accN := BitVec.ofNat 3 p.accN }

/-- The bytes an ENC of `sym` emits, `(acc_n + len[sym]) div 8` (44_lookup_encode.md R171, R173). -/
def bytesNeeded (sym : Byte) (s : State) : Nat := (s.accN.toNat + (readSym s.len sym).toNat) / 8

/-- The writes of an ENC that encodes (44_lookup_encode.md R171). -/
def encodeSymbol (sym : Byte) (s : State) : State :=
  let s' := packCode (readSym s.code sym) (readSym s.len sym).toNat s
  { s' with encCount := s.encCount + 1#32, outBits := s.outBits + (readSym s.len sym).setWidth 64 }

/-- `Body(ENC sym)` (44_lookup_encode.md R171). -/
def bodyEnc (sym : Byte) (s : State) : Except Code State :=
  if readSym s.len sym = 0#8 then .error .noCode
  else if s.encCount = 0xFFFFFFFF#32 then .error .capacity
  else if fifoSpace s < bytesNeeded sym s then .error .oFull
  else .ok (encodeSymbol sym s)

/-- ENC (44_lookup_encode.md R171). -/
def execEnc (sym : Byte) (s : State) : Host.Outcome State Fault Refusal := execute (.enc sym) (bodyEnc sym) s

/-- The byte FLUSH emits: the pending bits, zero bits padding the low end (44_lookup_encode.md R174). -/
def flushByte (s : State) : Byte := BitVec.ofNat 8 (s.acc.toNat <<< (8 - s.accN.toNat))

/-- `Body(FLUSH)` (44_lookup_encode.md R174). -/
def bodyFlush (s : State) : Except Code State :=
  if 0 < s.accN.toNat then
    if s.ofifo.length = s.params.ofifoDepth.toNat then .error .oFull
    else .ok { pushOut [flushByte s] s with acc := 0#7, accN := 0#3, phase := .done }
  else .ok { s with phase := .done }

/-- FLUSH (44_lookup_encode.md R174). -/
def execFlush (s : State) : Host.Outcome State Fault Refusal := execute .flush bodyFlush s

end Sys2Proof.Machine
end

