-- ==== Sys2Proof/Machine/TreeBuilder.lean ====
section
/-! DEFINITION. The tree builder: BUILD (42_tree_builder.md R141 to R149) and RDNODE (R150). The arena is a list of
nodes, entry `i` at place `i`; the priority structure is a list of keys that exists only inside one completion. -/

namespace Sys2Proof.Machine

/-- A leaf as seeding writes it (42_tree_builder.md R141). `depth` is written by R146 only. -/
def leafNode (sym : Byte) (count : Word) : Node :=
  { kind := .leaf, w := count, sym := sym, left := 0#9, right := 0#9, depth := 0#8 }

/-- Seeding: one leaf for each symbol with a non-zero count, in ascending symbol order (42_tree_builder.md R141). -/
def seedLeaves (freq : Table Word) : List Node :=
  ((entries freq).filter fun p => p.2 != 0#32).map fun p => leafNode p.1 p.2

/-- A member of the priority structure with its key `(node[i].w, i)` (42_tree_builder.md R142). -/
structure Key where
  w : Word
  idx : Nat
  deriving DecidableEq, Repr

/-- The order of keys: lower weight first, and for equal weights lower index first (42_tree_builder.md R142). -/
def Key.before (a b : Key) : Bool := a.w < b.w || (a.w == b.w && a.idx < b.idx)

/-- Remove the least key (42_tree_builder.md R143, R152): the key and what is left of the structure. -/
def popLeast : List Key → Option (Key × List Key)
  | [] => none
  | k :: ks =>
    match popLeast ks with
    | none => some (k, [])
    | some (m, rest) => if k.before m then some (k, ks) else some (m, k :: rest)

/-- The internal node that combines the key removed first, its left child, with the key removed second, its right
child (42_tree_builder.md R143, R144). -/
def joinNode (a b : Key) : Node :=
  { kind := .internal, w := a.w + b.w, sym := 0#8, left := BitVec.ofNat 9 a.idx, right := BitVec.ofNat 9 b.idx,
    depth := 0#8 }

/-- The merge loop of 42_tree_builder.md R143 on the arena so far and the priority structure. Each round leaves one
key less, so the number of leaves is fuel enough. -/
def mergeLoop : Nat → List Node → List Key → List Node
  | 0, arena, _ => arena
  | fuel + 1, arena, active =>
    match popLeast active with
    | none => arena
    | some (a, active₁) =>
      match popLeast active₁ with
      | none => arena
      | some (b, active₂) =>
        mergeLoop fuel (arena ++ [joinNode a b]) (active₂ ++ [{ w := a.w + b.w, idx := arena.length }])

/-- The keys of the leaves, entered in index order (42_tree_builder.md R142). -/
def leafKeys (leaves : List Node) : List Key :=
  leaves.zipIdx.map fun p => { w := p.1.w, idx := p.2 }

/-- The arena after seeding and merging (42_tree_builder.md R141, R143). -/
def mergedArena (freq : Table Word) : List Node :=
  mergeLoop (seedLeaves freq).length (seedLeaves freq) (leafKeys (seedLeaves freq))

/-- `node[i].depth <- d` (42_tree_builder.md R146). -/
def setDepth (arena : List Node) (i : Nat) (d : Byte) : List Node :=
  arena.modify i fun n => { n with depth := d }

/-- One round of the loop of 42_tree_builder.md R146: node `i` gives its children their depth. -/
def depthRound (arena : List Node) (i : Nat) : List Node :=
  match arena[i]? with
  | none => arena
  | some n => setDepth (setDepth arena n.left.toNat (n.depth + 1#8)) n.right.toNat (n.depth + 1#8)

/-- The depths of 42_tree_builder.md R146, when there are `n` ≥ 2 leaves: the root's is 0, and the internal nodes
from the root down to index `n` give their children theirs. -/
def assignDepths (n : Nat) (arena : List Node) : List Node :=
  if 2 ≤ n then
    (List.range' n (arena.length - n)).reverse.foldl depthRound (setDepth arena (arena.length - 1) 0#8)
  else arena

/-- The arena a BUILD leaves (42_tree_builder.md R141 to R146). -/
def builtArena (freq : Table Word) : List Node :=
  assignDepths (seedLeaves freq).length (mergedArena freq)

/-- `root` (42_tree_builder.md R145): the last entry, or 0 for an empty arena. -/
def rootOf (arena : List Node) : NodeIdx := BitVec.ofNat 9 (arena.length - 1)

/-- Code lengths (42_tree_builder.md R147) of an arena whose first `n` entries are its leaves: 0 for every symbol
without a leaf, 1 for a lone leaf, else the leaf's depth. -/
def codeLengths (n : Nat) (arena : List Node) : Table Byte :=
  if n = 1 then (arena.take 1).foldl (fun t leaf => writeSym t leaf.sym 1#8) (constTable 0#8)
  else (arena.take n).foldl (fun t leaf => writeSym t leaf.sym leaf.depth) (constTable 0#8)

/-- `max { len[s] : s in 0..255 }` (42_tree_builder.md R148). -/
def maxLength (len : Table Byte) : Byte :=
  (entries len).foldl (fun m p => if m < p.2 then p.2 else m) 0#8

/-- The lengths a BUILD leaves (42_tree_builder.md R147). -/
def builtLengths (freq : Table Word) : Table Byte :=
  codeLengths (seedLeaves freq).length (builtArena freq)

/-- The writes of BUILD (42_tree_builder.md R149). -/
def buildTree (s : State) : State :=
  { s with
    node := builtArena s.freq
    root := rootOf (builtArena s.freq)
    len := builtLengths s.freq
    maxlen := maxLength (builtLengths s.freq)
    phase := .tree }

/-- `Body(BUILD)` (42_tree_builder.md R149). -/
def bodyBuild (s : State) : Except Code State := .ok (buildTree s)

/-- BUILD (42_tree_builder.md R149). -/
def execBuild (s : State) : Host.Outcome State Fault Refusal := execute .build bodyBuild s

/-- The results of RDNODE for one entry (42_tree_builder.md R150). -/
def nodeResults (n : Node) (s : State) : State :=
  match n.kind with
  | .leaf => setResults n.w (0x80000000#32 ||| n.sym.setWidth 32) 0#32 s
  | .internal => setResults n.w 0#32 ((n.right.setWidth 32 <<< 16) ||| n.left.setWidth 32) s

/-- `Body(RDNODE idx)` (42_tree_builder.md R150). -/
def bodyRdnode (idx : NodeIdx) (s : State) : Except Code State :=
  match readNode s idx with
  | none => .error .range
  | some n => .ok (nodeResults n s)

/-- RDNODE (42_tree_builder.md R150). -/
def execRdnode (idx : NodeIdx) (s : State) : Host.Outcome State Fault Refusal :=
  execute (.rdnode idx) (bodyRdnode idx) s

end Sys2Proof.Machine
end

