-- ==== Sys2Proof/Machine/Dispatch.lean ====
section
/-! DEFINITION. The meaning of each command, one arm for each constructor of Instr (30_encoding.md R93). -/

namespace Sys2Proof.Machine

def exec (i : Instr) (s : State) : Host.Outcome State Fault Refusal :=
  match i with
  | .nop => Sys2Proof.Machine.execNop s
  | .clear => Sys2Proof.Machine.execClear s
  | .push sym => Sys2Proof.Machine.execPush sym s
  | .rdfreq sym => Sys2Proof.Machine.execRdfreq sym s
  | .build => Sys2Proof.Machine.execBuild s
  | .rdnode idx => Sys2Proof.Machine.execRdnode idx s
  | .canon => Sys2Proof.Machine.execCanon s
  | .lookup sym => Sys2Proof.Machine.execLookup sym s
  | .enc sym => Sys2Proof.Machine.execEnc sym s
  | .flush => Sys2Proof.Machine.execFlush s

end Sys2Proof.Machine
end

