-- ==== Sys2Proof/Machine/Engine.lean ====
section
/-! DEFINITION. The Engine's step: the completion of a pending command (40_control.md R111, R112). -/

namespace Sys2Proof.Machine

/-- `busy <- 0`, the end of a completion (40_control.md R111): the pending word is gone (10_state.md R32). -/
def idle (s : State) : State := { s with cmdq := none }

/-- Apply `f` to the state a step goes on in; a stop stays what it is. -/
def onNext (f : State → State) : Host.Outcome State Fault Refusal → Host.Outcome State Fault Refusal
  | .next s => .next (f s)
  | .fault r => .fault r
  | .refused r => .refused r

/-- `Execute(w)` (40_control.md R112): an illegal word fails with E_BADCMD, any other runs its command. -/
def executeWord (w : Word) (s : State) : Host.Outcome State Fault Refusal :=
  match decode w with
  | .badCmd => .next (fail .badCmd s)
  | .command i => exec i s

/-- The completion of 40_control.md R111: `Execute(cmdq)`, then `busy <- 0`. While `busy` = 0 the Engine has no step,
and its turn passes. -/
def complete (s : State) : Host.Outcome State Fault Refusal :=
  match s.cmdq with
  | none => .next s
  | some w => onNext idle (executeWord w s)

end Sys2Proof.Machine
end

