-- ==== Sys2Proof/Machine/Step.lean ====
section
/-! DEFINITION. One step of the machine: the turn at the head of `turns` (10_state.md R20), or, when no turn is left, the
Engine's completion of a pending command (70_reset_and_hazards.md R228: "a command that stays pending is eventually
completed"); and how a command word is put where the next step runs it. -/

namespace Sys2Proof.Machine

/-- One turn of one agent (10_state.md R20). -/
def takeTurn (t : Turn) (s : State) : Host.Outcome State Fault Refusal :=
  match t with
  | .host a => hostAccess a s
  | .engine => complete s
  | .reset => .next (resetEvent s)
  | .otherMaster a => .refused (.secondMaster a)

/-- One step. With no turn left the Engine completes what is pending, and an idle block "holds its state
indefinitely" (60_exceptions.md R213). -/
def step (s : State) : Host.Outcome State Fault Refusal :=
  match s.turns with
  | [] => complete s
  | t :: rest => takeTurn t { s with turns := rest }

/-- The command word is pending, as an issue leaves it (40_control.md R110), and the Engine moves next
(notes/assumptions/3.md). -/
def State.withFetchWord (s : State) (nbits w : Nat) : State :=
  { s with cmdq := some (tableWord nbits w), turns := .engine :: s.turns }

end Sys2Proof.Machine
end

