-- ==== Sys2Proof/Machine/HostNotation.lean ====
section
/-! DEFINITION. The host's notation (30_encoding.md R97) and the expansions of its pseudo-instructions (R98) as turns.
A host polls until it reads what it waits for; how often it polls depends on when the Engine completes, which the spec
leaves free (40_control.md R111, 70_reset_and_hazards.md R228), so the number of polls that read BUSY = 1 is an argument
here, one for each issue (DESIGN CHOICE, notes/assumptions/15.md). -/

namespace Sys2Proof.Machine

/-- The byte offset of a register (20_memory.md R61); for `reserved`, the first reserved offset. -/
def regOffset : Reg → Nat
  | .id => 0x00
  | .version => 0x04
  | .config => 0x08
  | .cmd => 0x0C
  | .status => 0x10
  | .errFlags => 0x14
  | .res0 => 0x18
  | .res1 => 0x1C
  | .res2 => 0x20
  | .total => 0x24
  | .nsym => 0x28
  | .treeInfo => 0x2C
  | .encCount => 0x30
  | .outBitsLo => 0x34
  | .outBitsHi => 0x38
  | .outData => 0x3C
  | .maxlen => 0x40
  | .reserved => 0x44

/-- `MemRead(HENC_BASE+off, 4)` (00_scope.md R9). -/
def readAt (p : Params) (off : Nat) : Access := { dir := .read, addr := p.hencBase + off, size := 4, full := true }

/-- `MemWrite(HENC_BASE+off, 4, v)` (00_scope.md R9). -/
def writeAt (p : Params) (off : Nat) (v : Word) : Access :=
  { dir := .write v, addr := p.hencBase + off, size := 4, full := true }

/-- `RD <reg>` (30_encoding.md R97). -/
def rd (p : Params) (r : Reg) : Turn := .host (readAt p (regOffset r))

/-- `WR <reg>, <value>` (30_encoding.md R97). -/
def wr (p : Params) (r : Reg) (v : Word) : Turn := .host (writeAt p (regOffset r) v)

/-- `WAIT` (30_encoding.md R98) when `polls` reads find the block busy before the Engine completes. -/
def waitTurns (p : Params) (polls : Nat) : List Turn :=
  List.replicate polls (rd p .status) ++ [.engine, rd p .status]

/-- `.word v` (30_encoding.md R98). -/
def wordTurns (p : Params) (polls : Nat) (v : Word) : List Turn := wr p .cmd v :: waitTurns p polls

/-- A command as a statement (30_encoding.md R98). -/
def commandTurns (p : Params) (polls : Nat) (i : Instr) : List Turn := wordTurns p polls (encode i)

/-- `PUSHS "s"` (30_encoding.md R98). Each byte stands with the number of polls of its own PUSH: the numbers of one string
are independent (40_control.md R111, 70_reset_and_hazards.md R228; DESIGN CHOICE, notes/assumptions/15.md). -/
def pushsTurns (p : Params) (bytes : List (Byte × Nat)) : List Turn :=
  bytes.flatMap fun b => commandTurns p b.2 (.push b.1)

/-- `ENCS "s"` (30_encoding.md R98). Each byte stands with the number of polls of its own ENC: the numbers of one string
are independent (40_control.md R111, 70_reset_and_hazards.md R228; DESIGN CHOICE, notes/assumptions/15.md). -/
def encsTurns (p : Params) (bytes : List (Byte × Nat)) : List Turn :=
  bytes.flatMap fun b => commandTurns p b.2 (.enc b.1)

/-- `DRAIN` (30_encoding.md R98) of a FIFO that holds `n` bytes: `n` reads with bit 8 = 1 and the one without. -/
def drainTurns (p : Params) (n : Nat) : List Turn := List.replicate (n + 1) (rd p .outData)

/-- `CLRERR` (30_encoding.md R98). -/
def clrErrTurn (p : Params) : Turn := wr p .errFlags 0x000000FE#32

end Sys2Proof.Machine
end

