-- ==== Sys2Proof/Safety.lean ====
section
/-! DEFINITION. The terms claims use: the turn of the Engine, running commands, the bit stream the block has emitted
(44_lookup_encode.md R176), prefix-freeness, and the invariant of 10_state.md R47. -/

namespace Sys2Proof.Machine

/-- The Engine moves next: its turn is first, or no turn is left. -/
def engineNext (s : State) : Bool :=
  match s.turns with
  | [] => true
  | .engine :: _ => true
  | _ => false

/-- The state once the turn at the head of `turns` is taken off. -/
def dropTurn (s : State) : State := { s with turns := s.turns.tail }

/-- The state after a host read that returned `v` and changed nothing else of the block. -/
def afterRead (v : Word) (s : State) : State := { dropTurn s with rdata := v }

/-- Run commands one after the other, each to its completion. -/
def runCommands : List Instr → State → Host.Outcome State Fault Refusal
  | [], s => .next s
  | i :: is, s =>
    match exec i s with
    | .next t => runCommands is t
    | .fault r => .fault r
    | .refused r => .refused r

/-- The phases the table of 40_control.md R113 marks "yes" for a command, row by row. -/
def legalPhases : Instr → List Phase
  | .nop => [.hist, .tree, .codes, .done]
  | .clear => [.hist, .tree, .codes, .done]
  | .push _ => [.hist]
  | .rdfreq _ => [.hist, .tree, .codes, .done]
  | .build => [.hist]
  | .rdnode _ => [.tree, .codes, .done]
  | .canon => [.tree]
  | .lookup _ => [.codes, .done]
  | .enc _ => [.codes]
  | .flush => [.codes]

/-- Σ_s `freq[s]` (10_state.md R47 item 1). -/
def freqSum (freq : Table Word) : Nat := (symbols.map fun sym => (readSym freq sym).toNat).sum

/-- The symbols that occur, in ascending order: the alphabet (00_scope.md R10). -/
def alphabet (freq : Table Word) : List Byte := symbols.filter fun sym => readSym freq sym != 0#32

/-- The bits of a byte in stream order, bit 7 first (44_lookup_encode.md R176). -/
def byteBits (b : Byte) : List Bool := (List.range 8).map fun j => b.getLsbD (7 - j)

/-- A code of length `l` and value `c` as a bit string, most significant bit first (00_scope.md R8). -/
def codeBits (c : DWord) (l : Nat) : List Bool := (List.range l).map fun j => c.getLsbD (l - 1 - j)

/-- The code of a symbol as a bit string (44_lookup_encode.md R176). -/
def symbolBits (len : Table Byte) (code : Table DWord) (sym : Byte) : List Bool :=
  codeBits (readSym code sym) (readSym len sym).toNat

/-- The bytes appended to the FIFO since the last reset or CLEAR, whether or not they have been read: the `B` of
10_state.md R47 item 7 is their number. -/
def emitted (s : State) : List Byte := s.payload ++ s.ofifo

/-- The bits of the packer's partial byte, earliest first (10_state.md R44). -/
def pendingBits (s : State) : List Bool := (List.range s.accN.toNat).map fun j => s.acc.getLsbD (s.accN.toNat - 1 - j)

/-- The bit stream since the last reset or CLEAR: the emitted bytes, then the pending bits (44_lookup_encode.md R176). -/
def stream (s : State) : List Bool := (emitted s).flatMap byteBits ++ pendingBits s

/-- How many zero bits pad `n` bits to whole bytes (44_lookup_encode.md R177). -/
def padCount (n : Nat) : Nat := (8 - n % 8) % 8

/-- 2^255 times Σ 2^(−len[s]) over the symbols with a code (42_tree_builder.md R151 item 5). -/
def kraftSum (len : Table Byte) : Nat :=
  (symbols.map fun sym => if readSym len sym = 0#8 then 0 else 2 ^ (255 - (readSym len sym).toNat)).sum

/-- For distinct symbols with codes, neither code's bit string begins the other's (43_canonical.md R164 item 2). -/
def PrefixFree (len : Table Byte) (code : Table DWord) : Prop :=
  ∀ x y : Byte, x ≠ y → readSym len x ≠ 0#8 → readSym len y ≠ 0#8 →
    ¬ List.IsPrefix (symbolBits len code x) (symbolBits len code y)

/-- Every bit string begins a symbol's code or has a symbol's code as its beginning (43_canonical.md R164 item 4). -/
def CompleteCode (len : Table Byte) (code : Table DWord) : Prop :=
  ∀ bits : List Bool, ∃ sym : Byte, readSym len sym ≠ 0#8 ∧
    (List.IsPrefix bits (symbolBits len code sym) ∨ List.IsPrefix (symbolBits len code sym) bits)

/-- `sym` is the last of `P`, the symbols with a code in the order of (length, symbol) (43_canonical.md R162). -/
def LastOfP (len : Table Byte) (sym : Byte) : Prop :=
  readSym len sym ≠ 0#8 ∧
  ∀ other : Byte, readSym len other ≠ 0#8 →
    readSym len other < readSym len sym ∨ (readSym len other = readSym len sym ∧ other ≤ sym)

/-- The children of a list of internal nodes, in order. -/
def childrenOf (nodes : List Node) : List Nat := nodes.flatMap fun n => [n.left.toNat, n.right.toNat]

/-- The children of the internal nodes among an arena's first `n` entries, in order. -/
def childrenBefore (arena : List Node) (n : Nat) : List Nat :=
  childrenOf ((arena.take n).filter fun m => m.kind = .internal)

/-- Encode symbols one after the other, taking the given number of bytes out of the FIFO after each; `none` as soon as
an ENC does not succeed (44_lookup_encode.md R178, step 3). -/
def encodePass : List (Byte × Nat) → State → Option State
  | [], s => some s
  | (sym, pops) :: rest, s =>
    match exec (.enc sym) s with
    | .next t =>
      if t.lastErr = .ok then encodePass rest ((fun u => (popOutData u).2)^[pops] t) else none
    | .fault _ => none
    | .refused _ => none

/-- What holds in every state a run from reset reaches: the items of 10_state.md R47, and the facts about single fields
the rules give that make them inductive (which arrays BUILD and CANON wrote, that reset and CLEAR zeroed the others).
R47 item 4 is read for the phases after BUILD, and items 3 to 6 follow from the fields below
(notes/assumptions/12.md). -/
structure Inv (s : State) : Prop where
  /-- R47 item 1 -/
  total_is_sum : s.total.toNat = freqSum s.freq
  /-- R47 item 2 -/
  nsym_counts : s.nsym.toNat = (alphabet s.freq).length
  /-- in HIST nothing is built (R30, R50) -/
  hist_tree : s.phase = .hist → s.node = [] ∧ s.root = 0#9 ∧ s.maxlen = 0#8 ∧ s.len = constTable 0#8
  /-- after BUILD the tree and the lengths are those of the counts (R47 items 3 to 5, 9) -/
  tree_of_counts : s.phase ≠ .hist →
    s.node = builtArena s.freq ∧ s.root = rootOf s.node ∧ s.len = builtLengths s.freq ∧ s.maxlen = maxLength s.len
  /-- before CANON no code is written (R50, R116) -/
  no_codes : s.phase = .hist ∨ s.phase = .tree → s.code = constTable 0#64
  /-- after CANON the codes are those of the lengths (R47 item 6) -/
  codes_of_lengths : s.phase = .codes ∨ s.phase = .done →
    s.maxlen.toNat ≤ codeWidth ∧ s.code = canonicalCodes s.len s.maxlen.toNat
  /-- R47 item 7, before the encode pass -/
  no_output : s.phase = .hist ∨ s.phase = .tree →
    s.outBits = 0#64 ∧ s.encCount = 0#32 ∧ emitted s = [] ∧ s.accN = 0#3
  /-- R47 item 7, in the encode pass -/
  codes_bits : s.phase = .codes → 8 * (emitted s).length + s.accN.toNat = s.outBits.toNat
  /-- R47 items 7 and 8, after FLUSH -/
  done_bits : s.phase = .done →
    s.accN = 0#3 ∧ 8 * (emitted s).length = s.outBits.toNat + padCount s.outBits.toNat
  /-- `acc` is below 2^`acc_n` (R44) -/
  acc_fits : s.acc.toNat < 2 ^ s.accN.toNat
  /-- the FIFO holds at most OFIFO_DEPTH bytes (R45) -/
  fifo_fits : s.ofifo.length ≤ s.params.ofifoDepth.toNat
  /-- "`out_bits` cannot overflow" (44_lookup_encode.md R171) -/
  bits_bounded : s.outBits.toNat ≤ 64 * s.encCount.toNat
  /-- `last_err` "never holds 7" (R33) -/
  err_legal : s.lastErr ≠ .busy
  /-- the parameters are in their ranges (00_scope.md R7) -/
  params_legal : s.params.legal

end Sys2Proof.Machine
end

