-- ==== Sys2Proof/Certificates/Slice0/Obligations.lean ====
section
/-! DEFINITION. The statements for the provers, in the order of the spec's files. Each says which rule it formalises.
A field list `{ s with f := t.f, … }` in a conclusion is the frame: every field not listed keeps its value. -/

open Sys2Proof Sys2Proof.Machine

/-! ### Reset and encoding -/

/-- 10_state.md R50: the reset values, and what every register the host can read resets to. -/
def Obligations.ResetHoldsTheStatedValues : Prop :=
  State.reset.phase = .hist ∧ State.reset.busy = false ∧ State.reset.lastErr = .ok ∧ State.reset.errFlags = 0#7 ∧
  State.reset.res0 = 0#32 ∧ State.reset.res1 = 0#32 ∧ State.reset.res2 = 0#32 ∧
  State.reset.total = 0#32 ∧ State.reset.nsym = 0#9 ∧ (∀ sym, readSym State.reset.freq sym = 0#32) ∧
  State.reset.nnodes = 0 ∧ State.reset.root = 0#9 ∧ State.reset.maxlen = 0#8 ∧
  (∀ sym, readSym State.reset.len sym = 0#8) ∧ (∀ sym, readSym State.reset.code sym = 0#64) ∧
  State.reset.acc = 0#7 ∧ State.reset.accN = 0#3 ∧ State.reset.ofifo = [] ∧
  State.reset.encCount = 0#32 ∧ State.reset.outBits = 0#64 ∧
  ∀ r : Reg, regWord State.reset r =
    (if r = .id then 0x48454E43#32 else if r = .version then 0x00010000#32
     else if r = .config then 0x20400000#32 ||| State.reset.params.ofifoDepth.setWidth 32 else 0#32)

/-- 30_encoding.md R93, R97: words written out bit by bit from the format OP, RSV, IMM16 decode to their commands,
one for each sub-unit and form. -/
def Obligations.WrittenWordsDecode : Prop :=
  decode 0b00000000_00000000_00000000_00000000#32 = .command .nop ∧
  decode 0b00010000_00000000_00000000_01100001#32 = .command (.push 0x61#8) ∧
  decode 0b00100001_00000000_00000001_11111111#32 = .command (.rdnode 511#9) ∧
  decode 0b00110000_00000000_00000000_00000000#32 = .command .canon ∧
  decode 0b01000001_00000000_00000000_01111010#32 = .command (.enc 0x7A#8) ∧
  decode 0b01010000_00000000_00000000_00000000#32 = .badCmd

/-- 30_encoding.md R96, R97: the word of every command, with every operand, is well-formed and decodes to it. -/
def Obligations.DecodeOfEncodeIsTheCommand : Prop :=
  ∀ i : Instr, wellFormed (encode i) = true ∧ decode (encode i) = .command i

/-- 30_encoding.md R92, R94: no two words stand for one command. -/
def Obligations.AcceptedWordsAreEncodings : Prop :=
  ∀ (w : Word) (i : Instr), decode w = .command i → encode i = w

/-- 30_encoding.md R92: a word is well-formed exactly when its match and mask select a row, and exactly then it
decodes to a command. -/
def Obligations.WellFormedWordsAreExactlyTheSelected : Prop :=
  ∀ w : Word,
    (wellFormed w = true ↔ ∃ r ∈ opcodeTable, w &&& r.mask = r.pattern) ∧
    (wellFormed w = true ↔ ∃ i, decode w = .command i)

/-! ### The command cycle -/

/-- 40_control.md R110: a CMD write while idle keeps the word, whatever it is, and changes nothing else; a CMD write while
busy is not an issue. -/
def Obligations.CmdWriteIssuesWhileIdleOnly : Prop :=
  ∀ (s : State) (w : Word) (rest : List Turn), s.turns = .host (writeAt s.params 0x0C w) :: rest →
    (s.busy = false → step s = .next { s with cmdq := some w, turns := rest }) ∧
    (s.busy = true → ∃ t, step s = .next t ∧ t.cmdq = s.cmdq)

/-- 40_control.md R111, R112: when the pending word decodes to a command and the Engine moves, the step is the command's
effect followed by `busy <- 0`; so it is for a word put by `withFetchWord`. -/
def Obligations.StepRunsTheDecodedCommand : Prop :=
  (∀ (s t : State) (w : Word) (i : Instr),
    engineNext s = true → s.cmdq = some w → decode w = .command i → exec i (dropTurn s) = .next t →
    step s = .next { t with cmdq := none }) ∧
  (∀ (s t : State) (i : Instr),
    exec i { s with cmdq := some (encode i) } = .next t →
    step (s.withFetchWord 32 (encode i).toNat) = .next { t with cmdq := none })

/-- 30_encoding.md R94: an illegal word completes with E_BADCMD and no other effect. -/
def Obligations.IllegalWordCompletesWithBadCmd : Prop :=
  ∀ (s : State) (w : Word),
    engineNext s = true → s.cmdq = some w → wellFormed w = false →
    step s = .next { dropTurn s with lastErr := .badCmd, errFlags := s.errFlags ||| 0b0000001#7, cmdq := none }

/-- 40_control.md R111: a pending command completes in the Engine's step, whatever its word and the state. -/
def Obligations.EveryPendingCommandCompletes : Prop :=
  ∀ (s : State) (w : Word), engineNext s = true → s.cmdq = some w →
    ∃ t, step s = .next t ∧ t.busy = false ∧ t.turns = s.turns.tail ∧ t.params = s.params ∧ t.draws = s.draws ∧
      t.rdata = s.rdata

/-- 40_control.md R111, 60_exceptions.md R213: the Engine has no step while idle, and an idle block keeps its state. -/
def Obligations.EngineHasNoStepWhileIdle : Prop :=
  ∀ s : State, engineNext s = true → s.busy = false → step s = .next (dropTurn s)

/-- 40_control.md R113: a command fails with E_PHASE exactly in the phases its row marks "-", and the failure changes
`last_err` and its sticky bit only. -/
def Obligations.PhaseErrorExactlyWhereTheTableSaysSo : Prop :=
  ∀ (i : Instr) (s : State),
    (s.phase ∉ legalPhases i →
      exec i s = .next { s with lastErr := .phase, errFlags := s.errFlags ||| 0b0000010#7 }) ∧
    (s.phase ∈ legalPhases i → ∃ t, exec i s = .next t ∧ t.lastErr ≠ .phase)

/-- 40_control.md R112, 60_exceptions.md R203, R206: a failed command changes `last_err` and the sticky bit of its code
only, and a successful one no sticky bit. -/
def Obligations.FailedCommandsArePrecise : Prop :=
  ∀ (i : Instr) (s t : State), exec i s = .next t →
    (t.lastErr ≠ .ok →
      t = { s with lastErr := t.lastErr,
                   errFlags := s.errFlags ||| (1#7 <<< ((codeNum t.lastErr).toNat - 1)) } ∧ t.lastErr ≠ .busy) ∧
    (t.lastErr = .ok → t.errFlags = s.errFlags)

/-- 40_control.md R114: only a successful BUILD, CANON or FLUSH, a CLEAR and a reset change `phase`. -/
def Obligations.OnlyTheseEventsChangePhase : Prop :=
  ∀ s t : State, step s = .next t → t.phase ≠ s.phase →
    (s.turns.head? = some .reset ∧ t.phase = .hist) ∨
    (engineNext s = true ∧ t.lastErr = .ok ∧ ∃ w, s.cmdq = some w ∧
      ((decode w = .command .build ∧ s.phase = .hist ∧ t.phase = .tree) ∨
       (decode w = .command .canon ∧ s.phase = .tree ∧ t.phase = .codes) ∨
       (decode w = .command .flush ∧ s.phase = .codes ∧ t.phase = .done) ∨
       (decode w = .command .clear ∧ t.phase = .hist)))

/-- 40_control.md R115: NOP writes `last_err` and nothing else, in every phase. -/
def Obligations.NopClearsLastErrOnly : Prop :=
  ∀ s : State, exec .nop s = .next { s with lastErr := .ok }

/-- 40_control.md R116: after CLEAR the state is the reset state except `err_flags`. The pending word is the completion's
to clear; the fields from `params` on are the model's own (notes/assumptions/1.md, 2.md, 4.md, 5.md). -/
def Obligations.ClearReachesTheResetState : Prop :=
  ∀ s : State, exec .clear s = .next
    { State.reset with errFlags := s.errFlags, cmdq := s.cmdq, params := s.params, turns := s.turns, rdata := s.rdata,
                       draws := s.draws }

/-! ### Histogram -/

/-- 41_histogram.md R130: a PUSH in HIST counts its byte, and changes nothing else. -/
def Obligations.PushCountsItsByte : Prop :=
  ∀ (s : State) (sym : Byte), s.phase = .hist → s.total ≠ 0xFFFFFFFF#32 →
    ∃ t, exec (.push sym) s = .next t ∧
      t = { s with lastErr := .ok, freq := t.freq, total := s.total + 1#32,
                   nsym := if readSym s.freq sym = 0#32 then s.nsym + 1#9 else s.nsym } ∧
      readSym t.freq sym = readSym s.freq sym + 1#32 ∧
      ∀ other, other ≠ sym → readSym t.freq other = readSym s.freq other

/-- 41_histogram.md R130: "The push that would make it 2^32 fails and counts nothing." -/
def Obligations.PushBeyondTheLastCountFails : Prop :=
  ∀ (s : State) (sym : Byte), s.phase = .hist → s.total = 0xFFFFFFFF#32 →
    exec (.push sym) s = .next { s with lastErr := .capacity, errFlags := s.errFlags ||| 0b0010000#7 }

/-- 41_histogram.md R131: RDFREQ in every phase. -/
def Obligations.RdfreqReadsTheCount : Prop :=
  ∀ (s : State) (sym : Byte), exec (.rdfreq sym) s =
    .next { s with lastErr := .ok, res0 := readSym s.freq sym, res1 := 0#32, res2 := 0#32 }

/-- 41_histogram.md R132: after pushes that fit, the counts are those of the multiset, and the order of the bytes
does not matter; from cleared counts, `total` is the length and `nsym` the number of distinct bytes. -/
def Obligations.HistogramDependsOnTheMultisetOnly : Prop :=
  ∀ (s : State) (xs ys : List Byte), xs.Perm ys → s.phase = .hist → s.total.toNat + xs.length < 2 ^ 32 →
    ∃ t, runCommands (xs.map .push) s = .next t ∧ runCommands (ys.map .push) s = .next t ∧
      (∀ sym, readSym t.freq sym = readSym s.freq sym + BitVec.ofNat 32 (xs.count sym)) ∧
      t.total.toNat = s.total.toNat + xs.length ∧
      (s.freq = constTable 0#32 → s.nsym = 0#9 → t.nsym.toNat = xs.toFinset.card)

/-! ### Tree builder -/

/-- 42_tree_builder.md R142, R152: what is removed is a key of the structure that comes before every other, in the order
of (weight, index). -/
def Obligations.RemovedKeyIsTheLeast : Prop :=
  ∀ (keys rest : List Key) (k : Key), popLeast keys = some (k, rest) → (keys.map Key.idx).Nodup →
    keys.Perm (k :: rest) ∧ ∀ k' ∈ rest, k.w < k'.w ∨ (k.w = k'.w ∧ k.idx < k'.idx)

/-- 42_tree_builder.md R141, R145, R149, R151 item 1: a BUILD in HIST completes, writes the tree, the lengths and the
phase only, seeds one leaf for each symbol that occurs in ascending order, and has 2N − 1 entries, the last the root. -/
def Obligations.BuildMakesAFullArena : Prop :=
  ∀ s : State, s.phase = .hist →
    ∃ t, exec .build s = .next t ∧
      t = { s with lastErr := .ok, phase := .tree, node := t.node, root := t.root, len := t.len, maxlen := t.maxlen } ∧
      t.nnodes = 2 * (alphabet s.freq).length - 1 ∧
      t.root.toNat = t.nnodes - 1 ∧
      (t.node.take (alphabet s.freq).length).map (fun n => (n.kind, n.w, n.sym, n.left, n.right)) =
        (alphabet s.freq).map (fun sym => (NodeKind.leaf, readSym s.freq sym, sym, 0#9, 0#9)) ∧
      ∀ n ∈ t.node.drop (alphabet s.freq).length, n.kind = .internal ∧ n.sym = 0#8

/-- 42_tree_builder.md R142, R143, R144, R151 item 2: every internal node has two children with smaller indices and the sum
of their weights; the left child's key (weight, index) comes before the right child's, and the right child's before the
key of every entry still without a parent once this node is made; and every index below the root is a child exactly
once. -/
def Obligations.BuiltTreeOwnsEveryNodeOnce : Prop :=
  ∀ s t : State, s.phase = .hist → exec .build s = .next t →
    (∀ (i : Nat) (n : Node), t.node[i]? = some n → n.kind = .internal →
      n.left.toNat < i ∧ n.right.toNat < i ∧
      ∃ l r, t.node[n.left.toNat]? = some l ∧ t.node[n.right.toNat]? = some r ∧ n.w = l.w + r.w ∧
        (l.w < r.w ∨ (l.w = r.w ∧ n.left.toNat < n.right.toNat)) ∧
        ∀ (j : Nat) (m : Node), j < i → t.node[j]? = some m → j ∉ childrenBefore t.node (i + 1) →
          r.w < m.w ∨ (r.w = m.w ∧ n.right.toNat < j)) ∧
    (childrenOf (t.node.filter fun n => n.kind = .internal)).Perm (List.range (t.nnodes - 1))

/-- 42_tree_builder.md R151 item 3: in a state that meets the invariant the root of a non-empty input weighs `total`. -/
def Obligations.RootWeighsTheInput : Prop :=
  ∀ s t : State, Inv s → s.phase = .hist → exec .build s = .next t →
    ∀ n, t.node.getLast? = some n → n.w = s.total

/-- 42_tree_builder.md R146, R147, R148: depths count from the root, a symbol's length is its leaf's depth (1 for a lone
leaf, 0 without a leaf), and `maxlen` is the largest length. -/
def Obligations.BuiltLengthsAreLeafDepths : Prop :=
  ∀ s t : State, s.phase = .hist → exec .build s = .next t →
    (∀ n, t.node.getLast? = some n → n.depth = 0#8) ∧
    (∀ n ∈ t.node, n.kind = .internal →
      ∀ i, i = n.left.toNat ∨ i = n.right.toNat → ∃ c, t.node[i]? = some c ∧ c.depth.toNat = n.depth.toNat + 1) ∧
    (∀ sym, readSym s.freq sym = 0#32 → readSym t.len sym = 0#8) ∧
    (∀ n ∈ t.node, n.kind = .leaf → t.nnodes = 1 → readSym t.len n.sym = 1#8) ∧
    (∀ n ∈ t.node, n.kind = .leaf → t.nnodes ≠ 1 → readSym t.len n.sym = n.depth) ∧
    (∀ sym, readSym t.len sym ≤ t.maxlen) ∧
    (∃ sym, readSym t.len sym = t.maxlen)

/-- 42_tree_builder.md R151 items 4 and 5: every length is below the number of leaves (but 1 for a lone leaf), and the
lengths meet the Kraft equality for two or more leaves, and have the sum 1/2 for one. -/
def Obligations.BuiltLengthsMeetTheKraftEquality : Prop :=
  ∀ s t : State, s.phase = .hist → exec .build s = .next t →
    (∀ sym, readSym s.freq sym ≠ 0#32 → 0 < (readSym t.len sym).toNat ∧
      (readSym t.len sym).toNat ≤ max 1 ((alphabet s.freq).length - 1)) ∧
    ((alphabet s.freq).length = 1 → kraftSum t.len = 2 ^ 254) ∧
    (2 ≤ (alphabet s.freq).length → kraftSum t.len = 2 ^ 255)

/-- 42_tree_builder.md R150: RDNODE's results for a leaf and for an internal node, and E_RANGE for an index that is not
below `nnodes`. -/
def Obligations.RdnodeReadsAnEntry : Prop :=
  ∀ (s : State) (idx : NodeIdx), s.phase ≠ .hist →
    (∀ n, s.node[idx.toNat]? = some n → n.kind = .leaf → exec (.rdnode idx) s = .next
      { s with lastErr := .ok, res0 := n.w, res1 := 1#1 ++ 0#23 ++ n.sym, res2 := 0#32 }) ∧
    (∀ n, s.node[idx.toNat]? = some n → n.kind = .internal → exec (.rdnode idx) s = .next
      { s with lastErr := .ok, res0 := n.w, res1 := 0#32, res2 := 0#7 ++ n.right ++ 0#7 ++ n.left }) ∧
    (s.nnodes ≤ idx.toNat → exec (.rdnode idx) s = .next
      { s with lastErr := .range, errFlags := s.errFlags ||| 0b0000100#7 })

/-! ### Canonical code generator -/

/-- 43_canonical.md R160, R161: a CANON in TREE with `maxlen` ≤ 64 completes and writes `code` and the phase only. The code
of a symbol of length l > 0 is Σ_{0 < j < l} 2^(l−j)·|{ x : len[x] = j }| plus the number of smaller symbols of its
length, and 0 without a code. The premise that no length exceeds `maxlen` holds wherever BUILD has run
(BuiltLengthsAreLeafDepths). -/
def Obligations.CanonAssignsTheCanonicalCodes : Prop :=
  ∀ s : State, s.phase = .tree → s.maxlen.toNat ≤ 64 → (∀ sym, readSym s.len sym ≤ s.maxlen) →
    ∃ t, exec .canon s = .next t ∧ t = { s with lastErr := .ok, phase := .codes, code := t.code } ∧
      ∀ sym, readSym t.code sym =
        if readSym s.len sym = 0#8 then 0#64
        else BitVec.ofNat 64
          (((List.range (readSym s.len sym).toNat).map fun j =>
              if j = 0 then 0
              else (symbols.countP fun x => (readSym s.len x).toNat == j) * 2 ^ ((readSym s.len sym).toNat - j)).sum +
            symbols.countP fun x => decide (x < sym) && readSym s.len x == readSym s.len sym)

/-- 43_canonical.md R163: CANON fails with E_CAPACITY when `maxlen` > 64, and writes nothing. -/
def Obligations.CanonBeyondTheCodeWidthFails : Prop :=
  ∀ s : State, s.phase = .tree → 64 < s.maxlen.toNat →
    exec .canon s = .next { s with lastErr := .capacity, errFlags := s.errFlags ||| 0b0010000#7 }

/-- 43_canonical.md R164 items 1 and 2, 10_state.md R47 item 6 and R43: in phases CODES and DONE of a state that meets the
invariant, every code fits its length and the codes are prefix-free. -/
def Obligations.CanonicalCodesArePrefixFree : Prop :=
  ∀ s : State, Inv s → s.phase = .codes ∨ s.phase = .done →
    (∀ sym, (readSym s.code sym).toNat < 2 ^ (readSym s.len sym).toNat) ∧ PrefixFree s.len s.code

/-- 43_canonical.md R164 items 3 and 4: codes of equal length are consecutive in ascending symbol order, and with two or
more symbols the last symbol of `P` has the longest length and the code of all ones, and the code is complete. -/
def Obligations.CanonicalCodesAreConsecutiveAndComplete : Prop :=
  ∀ s : State, Inv s → s.phase = .codes ∨ s.phase = .done →
    (∀ x y : Byte, x < y → readSym s.len x = readSym s.len y → readSym s.len x ≠ 0#8 →
      (∀ z, x < z → z < y → readSym s.len z ≠ readSym s.len x) →
      (readSym s.code y).toNat = (readSym s.code x).toNat + 1) ∧
    (2 ≤ s.nsym.toNat →
      (∃ sym, LastOfP s.len sym ∧ readSym s.len sym = s.maxlen ∧
        (readSym s.code sym).toNat = 2 ^ s.maxlen.toNat - 1) ∧
      CompleteCode s.len s.code)

/-- 44_lookup_encode.md R179 and 00_scope.md R10 ("guaranteeing unambiguous decoding"): in phases CODES and DONE of a state
that meets the invariant, as many symbols as were encoded can be read from the stream in one way only, whatever pads it. -/
def Obligations.EncodedSymbolsAreRecoverable : Prop :=
  ∀ (s : State) (xs ys : List Byte) (pad pad' : List Bool), Inv s → s.phase = .codes ∨ s.phase = .done →
    (∀ x ∈ xs, readSym s.len x ≠ 0#8) → (∀ y ∈ ys, readSym s.len y ≠ 0#8) → xs.length = ys.length →
    xs.flatMap (symbolBits s.len s.code) ++ pad = ys.flatMap (symbolBits s.len s.code) ++ pad' → xs = ys

/-! ### Lookup, encode pass, output stream -/

/-- 44_lookup_encode.md R170: LOOKUP in CODES and DONE. -/
def Obligations.LookupReadsTheCode : Prop :=
  ∀ (s : State) (sym : Byte), s.phase = .codes ∨ s.phase = .done →
    ∃ t, exec (.lookup sym) s = .next t ∧
      t = { s with lastErr := .ok, res0 := t.res0, res1 := t.res1, res2 := t.res2 } ∧
      t.res1 ++ t.res0 = readSym s.code sym ∧ t.res2.toNat = (readSym s.len sym).toNat

/-- 44_lookup_encode.md R171, R172, R176: an ENC that passes its checks appends the code's bits to the stream, most
significant bit first, moves every whole byte to the tail of the FIFO, counts, and changes nothing else. -/
def Obligations.EncAppendsTheCodeToTheStream : Prop :=
  ∀ (s : State) (sym : Byte), s.phase = .codes → readSym s.len sym ≠ 0#8 → s.encCount ≠ 0xFFFFFFFF#32 →
    (s.accN.toNat + (readSym s.len sym).toNat) / 8 ≤ s.params.ofifoDepth.toNat - s.ofifo.length →
    ∃ t bytes, exec (.enc sym) s = .next t ∧
      t = { s with lastErr := .ok, acc := t.acc, accN := t.accN, ofifo := s.ofifo ++ bytes,
                   encCount := s.encCount + 1#32, outBits := s.outBits + (readSym s.len sym).setWidth 64 } ∧
      bytes.length = (s.accN.toNat + (readSym s.len sym).toNat) / 8 ∧
      t.accN.toNat = (s.accN.toNat + (readSym s.len sym).toNat) % 8 ∧
      t.acc.toNat < 2 ^ t.accN.toNat ∧
      stream t = stream s ++ symbolBits s.len s.code sym

/-- 44_lookup_encode.md R171, R173: the three errors of ENC in the order they are checked; each changes nothing but
`last_err` and its sticky bit. -/
def Obligations.EncErrorsInOrder : Prop :=
  ∀ (s : State) (sym : Byte), s.phase = .codes →
    (readSym s.len sym = 0#8 →
      exec (.enc sym) s = .next { s with lastErr := .noCode, errFlags := s.errFlags ||| 0b0001000#7 }) ∧
    (readSym s.len sym ≠ 0#8 → s.encCount = 0xFFFFFFFF#32 →
      exec (.enc sym) s = .next { s with lastErr := .capacity, errFlags := s.errFlags ||| 0b0010000#7 }) ∧
    (readSym s.len sym ≠ 0#8 → s.encCount ≠ 0xFFFFFFFF#32 →
      s.params.ofifoDepth.toNat - s.ofifo.length < (s.accN.toNat + (readSym s.len sym).toNat) / 8 →
      exec (.enc sym) s = .next { s with lastErr := .oFull, errFlags := s.errFlags ||| 0b0100000#7 })

/-- 44_lookup_encode.md R173: "every ENC succeeds when issued with an empty FIFO", for a symbol with a code and a count
below its limit, in a state that meets the invariant. -/
def Obligations.EncWithAnEmptyFifoSucceeds : Prop :=
  ∀ (s : State) (sym : Byte), Inv s → s.phase = .codes → s.ofifo = [] → readSym s.len sym ≠ 0#8 →
    s.encCount ≠ 0xFFFFFFFF#32 → ∃ t, exec (.enc sym) s = .next t ∧ t.lastErr = .ok

/-- 44_lookup_encode.md R174, R176, R177: FLUSH in CODES pads the partial byte with zero bits and emits it, emits nothing
when there is none, ends the stream, and fails with E_OFULL when there is a partial byte and the FIFO is full. -/
def Obligations.FlushPadsAndEndsTheStream : Prop :=
  ∀ s : State, s.phase = .codes →
    (s.accN = 0#3 → exec .flush s = .next { s with lastErr := .ok, phase := .done }) ∧
    (s.accN ≠ 0#3 → s.ofifo.length ≠ s.params.ofifoDepth.toNat →
      ∃ t byte, exec .flush s = .next t ∧
        t = { s with lastErr := .ok, phase := .done, acc := 0#7, accN := 0#3, ofifo := s.ofifo ++ [byte] } ∧
        stream t = stream s ++ List.replicate (8 - s.accN.toNat) false) ∧
    (s.accN ≠ 0#3 → s.ofifo.length = s.params.ofifoDepth.toNat →
      exec .flush s = .next { s with lastErr := .oFull, errFlags := s.errFlags ||| 0b0100000#7 })

/-- 44_lookup_encode.md R175, R178 step 3: an encode pass whose ENCs all succeed, with any draining in between, appends
the symbols' codes to the stream in input order, and `out_bits` and `enc_count` grow by the sum of their lengths and by
their number, as far as the registers' widths go. -/
def Obligations.EncodePassAppendsEveryCode : Prop :=
  ∀ (xs : List (Byte × Nat)) (s t : State), encodePass xs s = some t →
    stream t = stream s ++ (xs.map Prod.fst).flatMap (symbolBits s.len s.code) ∧
    t.outBits = s.outBits + BitVec.ofNat 64 ((xs.map fun x => (readSym s.len x.1).toNat).sum) ∧
    t.encCount = s.encCount + BitVec.ofNat 32 xs.length ∧
    t.len = s.len ∧ t.code = s.code ∧ t.freq = s.freq

/-- 44_lookup_encode.md R177: in DONE, in a state that meets the invariant, exactly ⌈out_bits / 8⌉ bytes have been emitted
since the last CLEAR or reset. -/
def Obligations.PayloadLengthAfterFlush : Prop :=
  ∀ s : State, Inv s → s.phase = .done → (s.payload ++ s.ofifo).length = (s.outBits.toNat + 7) / 8

/-! ### Registers -/

/-- 10_state.md R24: the constants read the same whether busy or idle, and the read changes nothing of the block. -/
def Obligations.IdentificationRegistersAreConstant : Prop :=
  ∀ (s : State) (rest : List Turn),
    (s.turns = .host (readAt s.params 0x00) :: rest → step s = .next (afterRead 0x48454E43#32 s)) ∧
    (s.turns = .host (readAt s.params 0x04) :: rest → step s = .next (afterRead 0x00010000#32 s)) ∧
    (s.turns = .host (readAt s.params 0x08) :: rest →
      step s = .next (afterRead (0x20#8 ++ 0x40#8 ++ s.params.ofifoDepth) s))

/-- 10_state.md R26: the fields of STATUS while idle; the read changes nothing of the block. -/
def Obligations.StatusShowsItsFields : Prop :=
  ∀ (s : State) (rest : List Turn), s.turns = .host (readAt s.params 0x10) :: rest → s.busy = false →
    ∃ v : Word, step s = .next (afterRead v s) ∧
      v.extractLsb' 0 1 = 0#1 ∧
      v.extractLsb' 1 2 = (match s.phase with | .hist => 0#2 | .tree => 1#2 | .codes => 2#2 | .done => 3#2) ∧
      v.extractLsb' 3 1 = 0#1 ∧
      v.extractLsb' 4 4 = codeNum s.lastErr ∧
      v.extractLsb' 8 3 = s.accN ∧
      v.extractLsb' 11 1 = 0#1 ∧
      (v.getLsbD 12 = true ↔ 0 < s.ofifo.length) ∧
      (v.getLsbD 13 = true ↔ s.ofifo.length = s.params.ofifoDepth.toNat) ∧
      v.extractLsb' 14 2 = 0#2 ∧
      v.extractLsb' 16 16 = BitVec.ofNat 16 s.ofifo.length

/-- 10_state.md R28, R29, R34: the result and count registers while idle; the reads change nothing of the block. -/
def Obligations.CountAndResultRegistersRead : Prop :=
  ∀ (s : State) (off : Nat) (rest : List Turn),
    s.turns = .host (readAt s.params off) :: rest → s.busy = false →
    (off = 0x18 → step s = .next (afterRead s.res0 s)) ∧
    (off = 0x1C → step s = .next (afterRead s.res1 s)) ∧
    (off = 0x20 → step s = .next (afterRead s.res2 s)) ∧
    (off = 0x24 → step s = .next (afterRead s.total s)) ∧
    (off = 0x28 → step s = .next (afterRead (s.nsym.setWidth 32) s)) ∧
    (off = 0x30 → step s = .next (afterRead s.encCount s)) ∧
    (off = 0x34 → ∃ lo, step s = .next (afterRead lo s) ∧ lo = s.outBits.extractLsb' 0 32) ∧
    (off = 0x38 → ∃ hi, step s = .next (afterRead hi s) ∧ hi = s.outBits.extractLsb' 32 32)

/-- 10_state.md R27, R30: ERR_FLAGS, TREEINFO and MAXLEN while idle, field by field. -/
def Obligations.ErrorAndTreeRegistersRead : Prop :=
  ∀ (s : State) (off : Nat) (rest : List Turn),
    s.turns = .host (readAt s.params off) :: rest → s.busy = false →
    (off = 0x14 → ∃ v, step s = .next (afterRead v s) ∧ v.extractLsb' 1 7 = s.errFlags ∧ v.getLsbD 0 = false ∧
      v.extractLsb' 8 24 = 0#24) ∧
    (off = 0x2C → ∃ v, step s = .next (afterRead v s) ∧ v.extractLsb' 0 10 = BitVec.ofNat 10 s.nnodes ∧
      v.extractLsb' 10 6 = 0#6 ∧ v.extractLsb' 16 9 = (if s.nnodes = 0 then 0#9 else s.root) ∧
      v.extractLsb' 25 6 = 0#6 ∧ (v.getLsbD 31 = true ↔ 0 < s.nnodes)) ∧
    (off = 0x40 → ∃ v, step s = .next (afterRead v s) ∧ v.extractLsb' 0 8 = s.maxlen ∧ v.extractLsb' 8 24 = 0#24)

/-- 20_memory.md R65: the OUT_DATA read pops while idle, and reads 0 with no change when empty or busy. -/
def Obligations.OutDataReadPopsTheHead : Prop :=
  ∀ (s : State) (rest : List Turn), s.turns = .host (readAt s.params 0x3C) :: rest →
    (s.busy = true → step s = .next (afterRead 0#32 s)) ∧
    (s.busy = false → s.ofifo = [] → step s = .next (afterRead 0#32 s)) ∧
    (s.busy = false → ∀ b bs, s.ofifo = b :: bs →
      step s = .next { afterRead (0#23 ++ 1#1 ++ b) s with ofifo := bs, payload := s.payload ++ [b] })

/-- 20_memory.md R66: while busy, CMD, OUT_DATA and reserved offsets read 0, STATUS reads with bit 0 = 1, and no read
changes anything of the block, whatever the drawn values are. -/
def Obligations.ReadsWhileBusyChangeNothing : Prop :=
  ∀ (s : State) (off : Nat) (rest : List Turn), off % 4 = 0 → off < 256 →
    s.turns = .host (readAt s.params off) :: rest → s.busy = true →
    ∃ v n, step s = .next { afterRead v s with draws := n } ∧
      (off = 0x10 → v.getLsbD 0 = true) ∧
      (off = 0x0C ∨ off = 0x3C ∨ 0x44 ≤ off → v = 0#32)

/-- 20_memory.md R63: while idle, CMD and reserved offsets read 0 with no change; and a write to any offset but CMD and
ERR_FLAGS is ignored, whether idle or busy (R66). -/
def Obligations.ReservedReadsZeroAndOtherWritesAreIgnored : Prop :=
  ∀ (s : State) (off : Nat) (v : Word) (rest : List Turn), off % 4 = 0 → off < 256 →
    (s.turns = .host (readAt s.params off) :: rest → s.busy = false → off = 0x0C ∨ 0x44 ≤ off →
      step s = .next (afterRead 0#32 s)) ∧
    (s.turns = .host (writeAt s.params off v) :: rest → off ≠ 0x0C → off ≠ 0x14 → step s = .next (dropTurn s))

/-- 20_memory.md R64: a write of ERR_FLAGS while idle clears the bits written with 1 and no others. -/
def Obligations.ErrFlagsAreWriteOneToClear : Prop :=
  ∀ (s : State) (v : Word) (rest : List Turn),
    s.turns = .host (writeAt s.params 0x14 v) :: rest → s.busy = false →
    ∃ t, step s = .next t ∧ t = { s with turns := rest, errFlags := t.errFlags } ∧
      ∀ k, 1 ≤ k → k ≤ 7 → t.errFlags.getLsbD (k - 1) = (s.errFlags.getLsbD (k - 1) && !v.getLsbD k)

/-- 60_exceptions.md R204: a write of CMD or ERR_FLAGS while busy sets bit 7 of ERR_FLAGS and changes nothing else; a
write to another offset while busy is ignored with no flag. -/
def Obligations.WritesWhileBusyAreDiscarded : Prop :=
  ∀ (s : State) (off : Nat) (v : Word) (rest : List Turn), off % 4 = 0 → off < 256 →
    s.turns = .host (writeAt s.params off v) :: rest → s.busy = true →
    (off = 0x0C ∨ off = 0x14 → step s = .next { s with turns := rest, errFlags := s.errFlags ||| 0b1000000#7 }) ∧
    (off ≠ 0x0C → off ≠ 0x14 → step s = .next { s with turns := rest })

/-- 20_memory.md R62: exactly the accesses that are not aligned, 4 bytes wide, whole and inside the window are refused as
a host fault that names them. -/
def Obligations.UndefinedAccessesFaultByName : Prop :=
  ∀ (s : State) (a : Access) (rest : List Turn), s.turns = .host a :: rest →
    ((∃ off, off % 4 = 0 ∧ off < 256 ∧ a.addr = s.params.hencBase + off ∧ a.size = 4 ∧ a.full = true) →
      ∃ t, step s = .next t) ∧
    (¬ (∃ off, off % 4 = 0 ∧ off < 256 ∧ a.addr = s.params.hencBase + off ∧ a.size = 4 ∧ a.full = true) →
      step s = .fault (.hostBadAccess a))

/-- 20_memory.md R67: every host access but a CMD write, an ERR_FLAGS write and an OUT_DATA read leaves the block as it is;
only the host's read value and the draw counter may change. -/
def Obligations.OnlyThreeAccessesChangeTheBlock : Prop :=
  ∀ (s t : State) (a : Access) (rest : List Turn), s.turns = .host a :: rest → step s = .next t →
    (∀ v, a ≠ writeAt s.params 0x0C v) → (∀ v, a ≠ writeAt s.params 0x14 v) → a ≠ readAt s.params 0x3C →
    t = { s with turns := rest, rdata := t.rdata, draws := t.draws }

/-- 60_exceptions.md R211: an access by a second master is refused. -/
def Obligations.SecondMasterIsRefused : Prop :=
  ∀ (s : State) (a : Access) (rest : List Turn), s.turns = .otherMaster a :: rest →
    step s = .refused (.secondMaster a)

/-- 70_reset_and_hazards.md R220: a reset sets every field of the block to its reset value and discards a pending command,
from any state. The fields it keeps are the model's own (notes/assumptions/10.md). -/
def Obligations.ResetDiscardsEverything : Prop :=
  ∀ (s : State) (rest : List Turn), s.turns = .reset :: rest →
    step s = .next { State.reset with params := s.params, turns := rest, rdata := s.rdata, draws := s.draws }

/-! ### Whole-machine rules -/

/-- 10_state.md R28: only a successful RDFREQ, RDNODE, LOOKUP or CLEAR, and a reset, change the result registers. -/
def Obligations.OnlyReadbackWritesTheResults : Prop :=
  ∀ s t : State, step s = .next t → (t.res0, t.res1, t.res2) ≠ (s.res0, s.res1, s.res2) →
    s.turns.head? = some .reset ∨
    (engineNext s = true ∧ t.lastErr = .ok ∧ ∃ w i, s.cmdq = some w ∧ decode w = .command i ∧
      (i = .clear ∨ (∃ sym, i = .rdfreq sym) ∨ (∃ idx, i = .rdnode idx) ∨ ∃ sym, i = .lookup sym))

/-- 10_state.md R47 item 9: outside HIST only CLEAR and a reset change `freq`, `total` and `nsym`; in HIST also a PUSH. -/
def Obligations.OnlyPushCounts : Prop :=
  ∀ s t : State, step s = .next t → (t.freq, t.total, t.nsym) ≠ (s.freq, s.total, s.nsym) →
    s.turns.head? = some .reset ∨
    (engineNext s = true ∧ t.lastErr = .ok ∧ ∃ w, s.cmdq = some w ∧
      (decode w = .command .clear ∨ (s.phase = .hist ∧ ∃ sym, decode w = .command (.push sym))))

/-- 10_state.md R27: only a write of ERR_FLAGS while idle with a 1 in its place, and a reset, clear a sticky bit. -/
def Obligations.StickyBitsAreClearedByTheHostOnly : Prop :=
  ∀ (s t : State) (k : Nat), step s = .next t → 1 ≤ k → k ≤ 7 →
    s.errFlags.getLsbD (k - 1) = true → t.errFlags.getLsbD (k - 1) = false →
    s.turns.head? = some .reset ∨
    (s.busy = false ∧ ∃ v, s.turns.head? = some (.host (writeAt s.params 0x14 v)) ∧ v.getLsbD k = true)

/-- 00_scope.md R7, 10_state.md R22: the parameters are no state; no step changes them. -/
def Obligations.ParametersNeverChange : Prop :=
  ∀ s t : State, step s = .next t → t.params = s.params

/-- 10_state.md R47: the invariant holds at reset. -/
def Obligations.ResetMeetsTheInvariant : Prop := Inv State.reset

/-- 10_state.md R47: every step, of the Host, the Engine or Reset, keeps the invariant. -/
def Obligations.EveryStepKeepsTheInvariant : Prop :=
  ∀ s t : State, Inv s → step s = .next t → Inv t

/-- 10_state.md R47 items 3, 4 and 5, from the invariant: the arena's size after BUILD, which symbols have a length (in
the phases after BUILD, notes/assumptions/12.md), and `maxlen`. -/
def Obligations.InvariantGivesTheTreeItems : Prop :=
  ∀ s : State, Inv s →
    (s.phase ≠ .hist → s.nnodes = (if s.nsym = 0#9 then 0 else 2 * s.nsym.toNat - 1)) ∧
    (s.phase ≠ .hist → ∀ sym, 0 < (readSym s.len sym).toNat ↔ 0 < (readSym s.freq sym).toNat) ∧
    (∀ sym, readSym s.len sym ≤ s.maxlen) ∧ (∃ sym, readSym s.len sym = s.maxlen)

/-! ### Host programs -/

/-- 30_encoding.md R98, 40_control.md R111: from an idle state, a command as a statement, with any number of polls before
the Engine completes, ends with the command's effect and a read of STATUS with bit 0 = 0. -/
def Obligations.CommandStatementEndsIdle : Prop :=
  ∀ (s t : State) (i : Instr) (polls : Nat) (rest : List Turn), s.busy = false →
    s.turns = commandTurns s.params polls i ++ rest →
    exec i { s with turns := rest } = .next t →
    ∃ rdata draws, rdata.getLsbD 0 = false ∧
      core.run (polls + 3) s = .next { t with cmdq := none, rdata := rdata, draws := draws }

/-- 30_encoding.md R98, 20_memory.md R65, 10_state.md R45: draining an idle block's FIFO reads its bytes in order and ends
with a read without bit 8. -/
def Obligations.DrainReadsTheFifoInOrder : Prop :=
  ∀ (s : State) (rest : List Turn), s.busy = false → s.turns = drainTurns s.params s.ofifo.length ++ rest →
    core.run (s.ofifo.length + 1) s =
      .next { s with turns := rest, ofifo := [], payload := s.payload ++ s.ofifo, rdata := 0#32 }
end

