-- ==== Sys2Proof/Laws/State.lean ====
section
/-! SUPPORT. One lemma for each field of State and each shared update of it: the field after the update. -/

namespace Sys2Proof.Machine

@[simp] theorem fail_phase (e : Code) (s : State) : (fail e s).phase = s.phase := rfl
@[simp] theorem fail_cmdq (e : Code) (s : State) : (fail e s).cmdq = s.cmdq := rfl
@[simp] theorem fail_lastErr (e : Code) (s : State) : (fail e s).lastErr = e := rfl
@[simp] theorem fail_errFlags (e : Code) (s : State) : (fail e s).errFlags = setErrFlag e s.errFlags := rfl
@[simp] theorem fail_res0 (e : Code) (s : State) : (fail e s).res0 = s.res0 := rfl
@[simp] theorem fail_res1 (e : Code) (s : State) : (fail e s).res1 = s.res1 := rfl
@[simp] theorem fail_res2 (e : Code) (s : State) : (fail e s).res2 = s.res2 := rfl
@[simp] theorem fail_total (e : Code) (s : State) : (fail e s).total = s.total := rfl
@[simp] theorem fail_nsym (e : Code) (s : State) : (fail e s).nsym = s.nsym := rfl
@[simp] theorem fail_freq (e : Code) (s : State) : (fail e s).freq = s.freq := rfl
@[simp] theorem fail_node (e : Code) (s : State) : (fail e s).node = s.node := rfl
@[simp] theorem fail_root (e : Code) (s : State) : (fail e s).root = s.root := rfl
@[simp] theorem fail_maxlen (e : Code) (s : State) : (fail e s).maxlen = s.maxlen := rfl
@[simp] theorem fail_len (e : Code) (s : State) : (fail e s).len = s.len := rfl
@[simp] theorem fail_code (e : Code) (s : State) : (fail e s).code = s.code := rfl
@[simp] theorem fail_acc (e : Code) (s : State) : (fail e s).acc = s.acc := rfl
@[simp] theorem fail_accN (e : Code) (s : State) : (fail e s).accN = s.accN := rfl
@[simp] theorem fail_ofifo (e : Code) (s : State) : (fail e s).ofifo = s.ofifo := rfl
@[simp] theorem fail_encCount (e : Code) (s : State) : (fail e s).encCount = s.encCount := rfl
@[simp] theorem fail_outBits (e : Code) (s : State) : (fail e s).outBits = s.outBits := rfl
@[simp] theorem fail_params (e : Code) (s : State) : (fail e s).params = s.params := rfl
@[simp] theorem fail_turns (e : Code) (s : State) : (fail e s).turns = s.turns := rfl
@[simp] theorem fail_rdata (e : Code) (s : State) : (fail e s).rdata = s.rdata := rfl
@[simp] theorem fail_payload (e : Code) (s : State) : (fail e s).payload = s.payload := rfl
@[simp] theorem fail_draws (e : Code) (s : State) : (fail e s).draws = s.draws := rfl

@[simp] theorem succeed_phase (s : State) : (succeed s).phase = s.phase := rfl
@[simp] theorem succeed_cmdq (s : State) : (succeed s).cmdq = s.cmdq := rfl
@[simp] theorem succeed_lastErr (s : State) : (succeed s).lastErr = .ok := rfl
@[simp] theorem succeed_errFlags (s : State) : (succeed s).errFlags = s.errFlags := rfl
@[simp] theorem succeed_res0 (s : State) : (succeed s).res0 = s.res0 := rfl
@[simp] theorem succeed_res1 (s : State) : (succeed s).res1 = s.res1 := rfl
@[simp] theorem succeed_res2 (s : State) : (succeed s).res2 = s.res2 := rfl
@[simp] theorem succeed_total (s : State) : (succeed s).total = s.total := rfl
@[simp] theorem succeed_nsym (s : State) : (succeed s).nsym = s.nsym := rfl
@[simp] theorem succeed_freq (s : State) : (succeed s).freq = s.freq := rfl
@[simp] theorem succeed_node (s : State) : (succeed s).node = s.node := rfl
@[simp] theorem succeed_root (s : State) : (succeed s).root = s.root := rfl
@[simp] theorem succeed_maxlen (s : State) : (succeed s).maxlen = s.maxlen := rfl
@[simp] theorem succeed_len (s : State) : (succeed s).len = s.len := rfl
@[simp] theorem succeed_code (s : State) : (succeed s).code = s.code := rfl
@[simp] theorem succeed_acc (s : State) : (succeed s).acc = s.acc := rfl
@[simp] theorem succeed_accN (s : State) : (succeed s).accN = s.accN := rfl
@[simp] theorem succeed_ofifo (s : State) : (succeed s).ofifo = s.ofifo := rfl
@[simp] theorem succeed_encCount (s : State) : (succeed s).encCount = s.encCount := rfl
@[simp] theorem succeed_outBits (s : State) : (succeed s).outBits = s.outBits := rfl
@[simp] theorem succeed_params (s : State) : (succeed s).params = s.params := rfl
@[simp] theorem succeed_turns (s : State) : (succeed s).turns = s.turns := rfl
@[simp] theorem succeed_rdata (s : State) : (succeed s).rdata = s.rdata := rfl
@[simp] theorem succeed_payload (s : State) : (succeed s).payload = s.payload := rfl
@[simp] theorem succeed_draws (s : State) : (succeed s).draws = s.draws := rfl

@[simp] theorem pushOut_phase (bs : List Byte) (s : State) : (pushOut bs s).phase = s.phase := rfl
@[simp] theorem pushOut_cmdq (bs : List Byte) (s : State) : (pushOut bs s).cmdq = s.cmdq := rfl
@[simp] theorem pushOut_lastErr (bs : List Byte) (s : State) : (pushOut bs s).lastErr = s.lastErr := rfl
@[simp] theorem pushOut_errFlags (bs : List Byte) (s : State) : (pushOut bs s).errFlags = s.errFlags := rfl
@[simp] theorem pushOut_res0 (bs : List Byte) (s : State) : (pushOut bs s).res0 = s.res0 := rfl
@[simp] theorem pushOut_res1 (bs : List Byte) (s : State) : (pushOut bs s).res1 = s.res1 := rfl
@[simp] theorem pushOut_res2 (bs : List Byte) (s : State) : (pushOut bs s).res2 = s.res2 := rfl
@[simp] theorem pushOut_total (bs : List Byte) (s : State) : (pushOut bs s).total = s.total := rfl
@[simp] theorem pushOut_nsym (bs : List Byte) (s : State) : (pushOut bs s).nsym = s.nsym := rfl
@[simp] theorem pushOut_freq (bs : List Byte) (s : State) : (pushOut bs s).freq = s.freq := rfl
@[simp] theorem pushOut_node (bs : List Byte) (s : State) : (pushOut bs s).node = s.node := rfl
@[simp] theorem pushOut_root (bs : List Byte) (s : State) : (pushOut bs s).root = s.root := rfl
@[simp] theorem pushOut_maxlen (bs : List Byte) (s : State) : (pushOut bs s).maxlen = s.maxlen := rfl
@[simp] theorem pushOut_len (bs : List Byte) (s : State) : (pushOut bs s).len = s.len := rfl
@[simp] theorem pushOut_code (bs : List Byte) (s : State) : (pushOut bs s).code = s.code := rfl
@[simp] theorem pushOut_acc (bs : List Byte) (s : State) : (pushOut bs s).acc = s.acc := rfl
@[simp] theorem pushOut_accN (bs : List Byte) (s : State) : (pushOut bs s).accN = s.accN := rfl
@[simp] theorem pushOut_ofifo (bs : List Byte) (s : State) : (pushOut bs s).ofifo = s.ofifo ++ bs := rfl
@[simp] theorem pushOut_encCount (bs : List Byte) (s : State) : (pushOut bs s).encCount = s.encCount := rfl
@[simp] theorem pushOut_outBits (bs : List Byte) (s : State) : (pushOut bs s).outBits = s.outBits := rfl
@[simp] theorem pushOut_params (bs : List Byte) (s : State) : (pushOut bs s).params = s.params := rfl
@[simp] theorem pushOut_turns (bs : List Byte) (s : State) : (pushOut bs s).turns = s.turns := rfl
@[simp] theorem pushOut_rdata (bs : List Byte) (s : State) : (pushOut bs s).rdata = s.rdata := rfl
@[simp] theorem pushOut_payload (bs : List Byte) (s : State) : (pushOut bs s).payload = s.payload := rfl
@[simp] theorem pushOut_draws (bs : List Byte) (s : State) : (pushOut bs s).draws = s.draws := rfl

@[simp] theorem setResults_phase (a b c : Word) (s : State) : (setResults a b c s).phase = s.phase := rfl
@[simp] theorem setResults_cmdq (a b c : Word) (s : State) : (setResults a b c s).cmdq = s.cmdq := rfl
@[simp] theorem setResults_lastErr (a b c : Word) (s : State) : (setResults a b c s).lastErr = s.lastErr := rfl
@[simp] theorem setResults_errFlags (a b c : Word) (s : State) : (setResults a b c s).errFlags = s.errFlags := rfl
@[simp] theorem setResults_res0 (a b c : Word) (s : State) : (setResults a b c s).res0 = a := rfl
@[simp] theorem setResults_res1 (a b c : Word) (s : State) : (setResults a b c s).res1 = b := rfl
@[simp] theorem setResults_res2 (a b c : Word) (s : State) : (setResults a b c s).res2 = c := rfl
@[simp] theorem setResults_total (a b c : Word) (s : State) : (setResults a b c s).total = s.total := rfl
@[simp] theorem setResults_nsym (a b c : Word) (s : State) : (setResults a b c s).nsym = s.nsym := rfl
@[simp] theorem setResults_freq (a b c : Word) (s : State) : (setResults a b c s).freq = s.freq := rfl
@[simp] theorem setResults_node (a b c : Word) (s : State) : (setResults a b c s).node = s.node := rfl
@[simp] theorem setResults_root (a b c : Word) (s : State) : (setResults a b c s).root = s.root := rfl
@[simp] theorem setResults_maxlen (a b c : Word) (s : State) : (setResults a b c s).maxlen = s.maxlen := rfl
@[simp] theorem setResults_len (a b c : Word) (s : State) : (setResults a b c s).len = s.len := rfl
@[simp] theorem setResults_code (a b c : Word) (s : State) : (setResults a b c s).code = s.code := rfl
@[simp] theorem setResults_acc (a b c : Word) (s : State) : (setResults a b c s).acc = s.acc := rfl
@[simp] theorem setResults_accN (a b c : Word) (s : State) : (setResults a b c s).accN = s.accN := rfl
@[simp] theorem setResults_ofifo (a b c : Word) (s : State) : (setResults a b c s).ofifo = s.ofifo := rfl
@[simp] theorem setResults_encCount (a b c : Word) (s : State) : (setResults a b c s).encCount = s.encCount := rfl
@[simp] theorem setResults_outBits (a b c : Word) (s : State) : (setResults a b c s).outBits = s.outBits := rfl
@[simp] theorem setResults_params (a b c : Word) (s : State) : (setResults a b c s).params = s.params := rfl
@[simp] theorem setResults_turns (a b c : Word) (s : State) : (setResults a b c s).turns = s.turns := rfl
@[simp] theorem setResults_rdata (a b c : Word) (s : State) : (setResults a b c s).rdata = s.rdata := rfl
@[simp] theorem setResults_payload (a b c : Word) (s : State) : (setResults a b c s).payload = s.payload := rfl
@[simp] theorem setResults_draws (a b c : Word) (s : State) : (setResults a b c s).draws = s.draws := rfl

@[simp] theorem idle_phase (s : State) : (idle s).phase = s.phase := rfl
@[simp] theorem idle_cmdq (s : State) : (idle s).cmdq = none := rfl
@[simp] theorem idle_lastErr (s : State) : (idle s).lastErr = s.lastErr := rfl
@[simp] theorem idle_errFlags (s : State) : (idle s).errFlags = s.errFlags := rfl
@[simp] theorem idle_res0 (s : State) : (idle s).res0 = s.res0 := rfl
@[simp] theorem idle_res1 (s : State) : (idle s).res1 = s.res1 := rfl
@[simp] theorem idle_res2 (s : State) : (idle s).res2 = s.res2 := rfl
@[simp] theorem idle_total (s : State) : (idle s).total = s.total := rfl
@[simp] theorem idle_nsym (s : State) : (idle s).nsym = s.nsym := rfl
@[simp] theorem idle_freq (s : State) : (idle s).freq = s.freq := rfl
@[simp] theorem idle_node (s : State) : (idle s).node = s.node := rfl
@[simp] theorem idle_root (s : State) : (idle s).root = s.root := rfl
@[simp] theorem idle_maxlen (s : State) : (idle s).maxlen = s.maxlen := rfl
@[simp] theorem idle_len (s : State) : (idle s).len = s.len := rfl
@[simp] theorem idle_code (s : State) : (idle s).code = s.code := rfl
@[simp] theorem idle_acc (s : State) : (idle s).acc = s.acc := rfl
@[simp] theorem idle_accN (s : State) : (idle s).accN = s.accN := rfl
@[simp] theorem idle_ofifo (s : State) : (idle s).ofifo = s.ofifo := rfl
@[simp] theorem idle_encCount (s : State) : (idle s).encCount = s.encCount := rfl
@[simp] theorem idle_outBits (s : State) : (idle s).outBits = s.outBits := rfl
@[simp] theorem idle_params (s : State) : (idle s).params = s.params := rfl
@[simp] theorem idle_turns (s : State) : (idle s).turns = s.turns := rfl
@[simp] theorem idle_rdata (s : State) : (idle s).rdata = s.rdata := rfl
@[simp] theorem idle_payload (s : State) : (idle s).payload = s.payload := rfl
@[simp] theorem idle_draws (s : State) : (idle s).draws = s.draws := rfl

@[simp] theorem issue_phase (w : Word) (s : State) : (issue w s).phase = s.phase := rfl
@[simp] theorem issue_cmdq (w : Word) (s : State) : (issue w s).cmdq = some w := rfl
@[simp] theorem issue_lastErr (w : Word) (s : State) : (issue w s).lastErr = s.lastErr := rfl
@[simp] theorem issue_errFlags (w : Word) (s : State) : (issue w s).errFlags = s.errFlags := rfl
@[simp] theorem issue_res0 (w : Word) (s : State) : (issue w s).res0 = s.res0 := rfl
@[simp] theorem issue_res1 (w : Word) (s : State) : (issue w s).res1 = s.res1 := rfl
@[simp] theorem issue_res2 (w : Word) (s : State) : (issue w s).res2 = s.res2 := rfl
@[simp] theorem issue_total (w : Word) (s : State) : (issue w s).total = s.total := rfl
@[simp] theorem issue_nsym (w : Word) (s : State) : (issue w s).nsym = s.nsym := rfl
@[simp] theorem issue_freq (w : Word) (s : State) : (issue w s).freq = s.freq := rfl
@[simp] theorem issue_node (w : Word) (s : State) : (issue w s).node = s.node := rfl
@[simp] theorem issue_root (w : Word) (s : State) : (issue w s).root = s.root := rfl
@[simp] theorem issue_maxlen (w : Word) (s : State) : (issue w s).maxlen = s.maxlen := rfl
@[simp] theorem issue_len (w : Word) (s : State) : (issue w s).len = s.len := rfl
@[simp] theorem issue_code (w : Word) (s : State) : (issue w s).code = s.code := rfl
@[simp] theorem issue_acc (w : Word) (s : State) : (issue w s).acc = s.acc := rfl
@[simp] theorem issue_accN (w : Word) (s : State) : (issue w s).accN = s.accN := rfl
@[simp] theorem issue_ofifo (w : Word) (s : State) : (issue w s).ofifo = s.ofifo := rfl
@[simp] theorem issue_encCount (w : Word) (s : State) : (issue w s).encCount = s.encCount := rfl
@[simp] theorem issue_outBits (w : Word) (s : State) : (issue w s).outBits = s.outBits := rfl
@[simp] theorem issue_params (w : Word) (s : State) : (issue w s).params = s.params := rfl
@[simp] theorem issue_turns (w : Word) (s : State) : (issue w s).turns = s.turns := rfl
@[simp] theorem issue_rdata (w : Word) (s : State) : (issue w s).rdata = s.rdata := rfl
@[simp] theorem issue_payload (w : Word) (s : State) : (issue w s).payload = s.payload := rfl
@[simp] theorem issue_draws (w : Word) (s : State) : (issue w s).draws = s.draws := rfl

@[simp] theorem busyViolation_phase (s : State) : (busyViolation s).phase = s.phase := rfl
@[simp] theorem busyViolation_cmdq (s : State) : (busyViolation s).cmdq = s.cmdq := rfl
@[simp] theorem busyViolation_lastErr (s : State) : (busyViolation s).lastErr = s.lastErr := rfl
@[simp] theorem busyViolation_errFlags (s : State) : (busyViolation s).errFlags = setErrFlag .busy s.errFlags := rfl
@[simp] theorem busyViolation_res0 (s : State) : (busyViolation s).res0 = s.res0 := rfl
@[simp] theorem busyViolation_res1 (s : State) : (busyViolation s).res1 = s.res1 := rfl
@[simp] theorem busyViolation_res2 (s : State) : (busyViolation s).res2 = s.res2 := rfl
@[simp] theorem busyViolation_total (s : State) : (busyViolation s).total = s.total := rfl
@[simp] theorem busyViolation_nsym (s : State) : (busyViolation s).nsym = s.nsym := rfl
@[simp] theorem busyViolation_freq (s : State) : (busyViolation s).freq = s.freq := rfl
@[simp] theorem busyViolation_node (s : State) : (busyViolation s).node = s.node := rfl
@[simp] theorem busyViolation_root (s : State) : (busyViolation s).root = s.root := rfl
@[simp] theorem busyViolation_maxlen (s : State) : (busyViolation s).maxlen = s.maxlen := rfl
@[simp] theorem busyViolation_len (s : State) : (busyViolation s).len = s.len := rfl
@[simp] theorem busyViolation_code (s : State) : (busyViolation s).code = s.code := rfl
@[simp] theorem busyViolation_acc (s : State) : (busyViolation s).acc = s.acc := rfl
@[simp] theorem busyViolation_accN (s : State) : (busyViolation s).accN = s.accN := rfl
@[simp] theorem busyViolation_ofifo (s : State) : (busyViolation s).ofifo = s.ofifo := rfl
@[simp] theorem busyViolation_encCount (s : State) : (busyViolation s).encCount = s.encCount := rfl
@[simp] theorem busyViolation_outBits (s : State) : (busyViolation s).outBits = s.outBits := rfl
@[simp] theorem busyViolation_params (s : State) : (busyViolation s).params = s.params := rfl
@[simp] theorem busyViolation_turns (s : State) : (busyViolation s).turns = s.turns := rfl
@[simp] theorem busyViolation_rdata (s : State) : (busyViolation s).rdata = s.rdata := rfl
@[simp] theorem busyViolation_payload (s : State) : (busyViolation s).payload = s.payload := rfl
@[simp] theorem busyViolation_draws (s : State) : (busyViolation s).draws = s.draws := rfl

@[simp] theorem dropTurn_phase (s : State) : (dropTurn s).phase = s.phase := rfl
@[simp] theorem dropTurn_cmdq (s : State) : (dropTurn s).cmdq = s.cmdq := rfl
@[simp] theorem dropTurn_lastErr (s : State) : (dropTurn s).lastErr = s.lastErr := rfl
@[simp] theorem dropTurn_errFlags (s : State) : (dropTurn s).errFlags = s.errFlags := rfl
@[simp] theorem dropTurn_res0 (s : State) : (dropTurn s).res0 = s.res0 := rfl
@[simp] theorem dropTurn_res1 (s : State) : (dropTurn s).res1 = s.res1 := rfl
@[simp] theorem dropTurn_res2 (s : State) : (dropTurn s).res2 = s.res2 := rfl
@[simp] theorem dropTurn_total (s : State) : (dropTurn s).total = s.total := rfl
@[simp] theorem dropTurn_nsym (s : State) : (dropTurn s).nsym = s.nsym := rfl
@[simp] theorem dropTurn_freq (s : State) : (dropTurn s).freq = s.freq := rfl
@[simp] theorem dropTurn_node (s : State) : (dropTurn s).node = s.node := rfl
@[simp] theorem dropTurn_root (s : State) : (dropTurn s).root = s.root := rfl
@[simp] theorem dropTurn_maxlen (s : State) : (dropTurn s).maxlen = s.maxlen := rfl
@[simp] theorem dropTurn_len (s : State) : (dropTurn s).len = s.len := rfl
@[simp] theorem dropTurn_code (s : State) : (dropTurn s).code = s.code := rfl
@[simp] theorem dropTurn_acc (s : State) : (dropTurn s).acc = s.acc := rfl
@[simp] theorem dropTurn_accN (s : State) : (dropTurn s).accN = s.accN := rfl
@[simp] theorem dropTurn_ofifo (s : State) : (dropTurn s).ofifo = s.ofifo := rfl
@[simp] theorem dropTurn_encCount (s : State) : (dropTurn s).encCount = s.encCount := rfl
@[simp] theorem dropTurn_outBits (s : State) : (dropTurn s).outBits = s.outBits := rfl
@[simp] theorem dropTurn_params (s : State) : (dropTurn s).params = s.params := rfl
@[simp] theorem dropTurn_turns (s : State) : (dropTurn s).turns = s.turns.tail := rfl
@[simp] theorem dropTurn_rdata (s : State) : (dropTurn s).rdata = s.rdata := rfl
@[simp] theorem dropTurn_payload (s : State) : (dropTurn s).payload = s.payload := rfl
@[simp] theorem dropTurn_draws (s : State) : (dropTurn s).draws = s.draws := rfl

@[simp] theorem afterRead_phase (v : Word) (s : State) : (afterRead v s).phase = s.phase := rfl
@[simp] theorem afterRead_cmdq (v : Word) (s : State) : (afterRead v s).cmdq = s.cmdq := rfl
@[simp] theorem afterRead_lastErr (v : Word) (s : State) : (afterRead v s).lastErr = s.lastErr := rfl
@[simp] theorem afterRead_errFlags (v : Word) (s : State) : (afterRead v s).errFlags = s.errFlags := rfl
@[simp] theorem afterRead_res0 (v : Word) (s : State) : (afterRead v s).res0 = s.res0 := rfl
@[simp] theorem afterRead_res1 (v : Word) (s : State) : (afterRead v s).res1 = s.res1 := rfl
@[simp] theorem afterRead_res2 (v : Word) (s : State) : (afterRead v s).res2 = s.res2 := rfl
@[simp] theorem afterRead_total (v : Word) (s : State) : (afterRead v s).total = s.total := rfl
@[simp] theorem afterRead_nsym (v : Word) (s : State) : (afterRead v s).nsym = s.nsym := rfl
@[simp] theorem afterRead_freq (v : Word) (s : State) : (afterRead v s).freq = s.freq := rfl
@[simp] theorem afterRead_node (v : Word) (s : State) : (afterRead v s).node = s.node := rfl
@[simp] theorem afterRead_root (v : Word) (s : State) : (afterRead v s).root = s.root := rfl
@[simp] theorem afterRead_maxlen (v : Word) (s : State) : (afterRead v s).maxlen = s.maxlen := rfl
@[simp] theorem afterRead_len (v : Word) (s : State) : (afterRead v s).len = s.len := rfl
@[simp] theorem afterRead_code (v : Word) (s : State) : (afterRead v s).code = s.code := rfl
@[simp] theorem afterRead_acc (v : Word) (s : State) : (afterRead v s).acc = s.acc := rfl
@[simp] theorem afterRead_accN (v : Word) (s : State) : (afterRead v s).accN = s.accN := rfl
@[simp] theorem afterRead_ofifo (v : Word) (s : State) : (afterRead v s).ofifo = s.ofifo := rfl
@[simp] theorem afterRead_encCount (v : Word) (s : State) : (afterRead v s).encCount = s.encCount := rfl
@[simp] theorem afterRead_outBits (v : Word) (s : State) : (afterRead v s).outBits = s.outBits := rfl
@[simp] theorem afterRead_params (v : Word) (s : State) : (afterRead v s).params = s.params := rfl
@[simp] theorem afterRead_turns (v : Word) (s : State) : (afterRead v s).turns = s.turns.tail := rfl
@[simp] theorem afterRead_rdata (v : Word) (s : State) : (afterRead v s).rdata = v := rfl
@[simp] theorem afterRead_payload (v : Word) (s : State) : (afterRead v s).payload = s.payload := rfl
@[simp] theorem afterRead_draws (v : Word) (s : State) : (afterRead v s).draws = s.draws := rfl

@[simp] theorem fail_busy (e : Code) (s : State) : (fail e s).busy = s.busy := rfl
@[simp] theorem fail_nnodes (e : Code) (s : State) : (fail e s).nnodes = s.nnodes := rfl
@[simp] theorem succeed_busy (s : State) : (succeed s).busy = s.busy := rfl
@[simp] theorem succeed_nnodes (s : State) : (succeed s).nnodes = s.nnodes := rfl
@[simp] theorem pushOut_busy (bs : List Byte) (s : State) : (pushOut bs s).busy = s.busy := rfl
@[simp] theorem pushOut_nnodes (bs : List Byte) (s : State) : (pushOut bs s).nnodes = s.nnodes := rfl
@[simp] theorem setResults_busy (a b c : Word) (s : State) : (setResults a b c s).busy = s.busy := rfl
@[simp] theorem setResults_nnodes (a b c : Word) (s : State) : (setResults a b c s).nnodes = s.nnodes := rfl
@[simp] theorem idle_busy (s : State) : (idle s).busy = false := rfl
@[simp] theorem idle_nnodes (s : State) : (idle s).nnodes = s.nnodes := rfl
@[simp] theorem issue_busy (w : Word) (s : State) : (issue w s).busy = true := rfl
@[simp] theorem issue_nnodes (w : Word) (s : State) : (issue w s).nnodes = s.nnodes := rfl
@[simp] theorem busyViolation_busy (s : State) : (busyViolation s).busy = s.busy := rfl
@[simp] theorem busyViolation_nnodes (s : State) : (busyViolation s).nnodes = s.nnodes := rfl
@[simp] theorem dropTurn_busy (s : State) : (dropTurn s).busy = s.busy := rfl
@[simp] theorem dropTurn_nnodes (s : State) : (dropTurn s).nnodes = s.nnodes := rfl
@[simp] theorem afterRead_busy (v : Word) (s : State) : (afterRead v s).busy = s.busy := rfl
@[simp] theorem afterRead_nnodes (v : Word) (s : State) : (afterRead v s).nnodes = s.nnodes := rfl

end Sys2Proof.Machine
end

