-- ==== Sys2Proof/Laws/Exec.lean ====
section
/-! SUPPORT. What the shared execution frame can do, said once: a command's meaning is the frame around its body
(40_control.md R112), and the frame ends in one of three ways. -/

namespace Sys2Proof.Machine

/-- The body of a command (40_control.md R112). -/
def bodyOf : Instr → State → Except Code State
  | .nop => bodyNop
  | .clear => bodyClear
  | .push sym => bodyPush sym
  | .rdfreq sym => bodyRdfreq sym
  | .build => bodyBuild
  | .rdnode idx => bodyRdnode idx
  | .canon => bodyCanon
  | .lookup sym => bodyLookup sym
  | .enc sym => bodyEnc sym
  | .flush => bodyFlush

theorem exec_eq_execute (i : Instr) (s : State) : exec i s = execute i (bodyOf i) s := by
  cases i <;> rfl

/-- The frame always goes on, and says how: E_PHASE, the body's error, or the body's writes. -/
theorem execute_cases (c : Instr) (body : State → Except Code State) (s : State) :
    (legal c s.phase = false ∧ execute c body s = .next (fail .phase s)) ∨
    (legal c s.phase = true ∧ ∃ e, body s = .error e ∧ execute c body s = .next (fail e s)) ∨
    (legal c s.phase = true ∧ ∃ s', body s = .ok s' ∧ execute c body s = .next (succeed s')) := by
  unfold execute
  cases hl : legal c s.phase with
  | false => exact .inl ⟨rfl, rfl⟩
  | true =>
    cases hb : body s with
    | error e => exact .inr (.inl ⟨rfl, e, rfl, rfl⟩)
    | ok s' => exact .inr (.inr ⟨rfl, s', rfl, rfl⟩)

/-- Inversion of `exec`: everything a command can do, its guards included. -/
theorem exec_cases {i : Instr} {s t : State} (h : exec i s = .next t) :
    (legal i s.phase = false ∧ t = fail .phase s) ∨
    (legal i s.phase = true ∧ ∃ e, bodyOf i s = .error e ∧ t = fail e s) ∨
    (legal i s.phase = true ∧ ∃ s', bodyOf i s = .ok s' ∧ t = succeed s') := by
  rw [exec_eq_execute] at h
  rcases execute_cases i (bodyOf i) s with ⟨hl, he⟩ | ⟨hl, e, hb, he⟩ | ⟨hl, s', hb, he⟩
  · exact .inl ⟨hl, by simpa using (he.symm.trans h).symm⟩
  · exact .inr (.inl ⟨hl, e, hb, by simpa using (he.symm.trans h).symm⟩)
  · exact .inr (.inr ⟨hl, s', hb, by simpa using (he.symm.trans h).symm⟩)

theorem exec_goes_on (i : Instr) (s : State) : ∃ t, exec i s = .next t := by
  rw [exec_eq_execute]
  rcases execute_cases i (bodyOf i) s with ⟨-, he⟩ | ⟨-, e, -, he⟩ | ⟨-, s', -, he⟩
  · exact ⟨_, he⟩
  · exact ⟨_, he⟩
  · exact ⟨_, he⟩

theorem exec_of_illegal {i : Instr} {s : State} (h : legal i s.phase = false) : exec i s = .next (fail .phase s) := by
  simp [exec_eq_execute, execute, h]

theorem exec_of_ok {i : Instr} {s s' : State} (hl : legal i s.phase = true) (hb : bodyOf i s = .ok s') :
    exec i s = .next (succeed s') := by
  simp [exec_eq_execute, execute, hl, hb]

theorem exec_of_error {i : Instr} {s : State} {e : Code} (hl : legal i s.phase = true) (hb : bodyOf i s = .error e) :
    exec i s = .next (fail e s) := by
  simp [exec_eq_execute, execute, hl, hb]

/-- Where a body's writes come from: what each command answers when it raises no error. -/
theorem bodyOf_ok_cases {i : Instr} {s s' : State} (h : bodyOf i s = .ok s') :
    (i = .nop ∧ s' = s) ∨ (i = .clear ∧ s' = clearState s) ∨
    (∃ sym, i = .push sym ∧ s.total ≠ 0xFFFFFFFF#32 ∧ s' = countSymbol sym s) ∨
    (∃ sym, i = .rdfreq sym ∧ s' = setResults (readSym s.freq sym) 0#32 0#32 s) ∨
    (i = .build ∧ s' = buildTree s) ∨
    (∃ idx n, i = .rdnode idx ∧ readNode s idx = some n ∧ s' = nodeResults n s) ∨
    (i = .canon ∧ s.maxlen.toNat ≤ codeWidth ∧
      s' = { s with code := canonicalCodes s.len s.maxlen.toNat, phase := .codes }) ∨
    (∃ sym, i = .lookup sym ∧ bodyLookup sym s = .ok s') ∨
    (∃ sym, i = .enc sym ∧ readSym s.len sym ≠ 0#8 ∧ s.encCount ≠ 0xFFFFFFFF#32 ∧
      bytesNeeded sym s ≤ fifoSpace s ∧ s' = encodeSymbol sym s) ∨
    (i = .flush ∧ bodyFlush s = .ok s') := by
  cases i with
  | nop => exact .inl ⟨rfl, by simpa [bodyOf, bodyNop] using h.symm⟩
  | clear => exact .inr (.inl ⟨rfl, by simpa [bodyOf, bodyClear] using h.symm⟩)
  | push sym =>
    by_cases ht : s.total = 0xFFFFFFFF#32
    · simp [bodyOf, bodyPush, ht] at h
    · exact .inr (.inr (.inl ⟨sym, rfl, ht, by simpa [bodyOf, bodyPush, ht] using h.symm⟩))
  | rdfreq sym => exact .inr (.inr (.inr (.inl ⟨sym, rfl, by simpa [bodyOf, bodyRdfreq] using h.symm⟩)))
  | build => exact .inr (.inr (.inr (.inr (.inl ⟨rfl, by simpa [bodyOf, bodyBuild] using h.symm⟩))))
  | rdnode idx =>
    cases hn : readNode s idx with
    | none => simp [bodyOf, bodyRdnode, hn] at h
    | some n =>
      exact .inr (.inr (.inr (.inr (.inr (.inl
        ⟨idx, n, rfl, hn, by simpa [bodyOf, bodyRdnode, hn] using h.symm⟩)))))
  | canon =>
    by_cases hm : codeWidth < s.maxlen.toNat
    · simp [bodyOf, bodyCanon, hm] at h
    · exact .inr (.inr (.inr (.inr (.inr (.inr (.inl
        ⟨rfl, Nat.le_of_not_lt hm, by simpa [bodyOf, bodyCanon, hm] using h.symm⟩))))))
  | lookup sym => exact .inr (.inr (.inr (.inr (.inr (.inr (.inr (.inl ⟨sym, rfl, h⟩)))))))
  | enc sym =>
    simp only [bodyOf, bodyEnc] at h
    split at h
    · simp at h
    · split at h
      · simp at h
      · split at h
        · simp at h
        · next h1 h2 h3 =>
          exact .inr (.inr (.inr (.inr (.inr (.inr (.inr (.inr (.inl
            ⟨sym, rfl, h1, h2, Nat.le_of_not_lt h3, by simpa using h.symm⟩))))))))
  | flush => exact .inr (.inr (.inr (.inr (.inr (.inr (.inr (.inr (.inr ⟨rfl, h⟩))))))))

/-- A command's own checks raise these codes only (60_exceptions.md R201). -/
theorem bodyOf_error {i : Instr} {s : State} {e : Code} (h : bodyOf i s = .error e) :
    e = .range ∨ e = .noCode ∨ e = .capacity ∨ e = .oFull := by
  cases i <;> simp only [bodyOf, bodyNop, bodyClear, bodyPush, bodyRdfreq, bodyBuild, bodyRdnode, bodyCanon, bodyLookup,
    bodyEnc, bodyFlush] at h
  all_goals repeat' split at h
  all_goals simp_all

/-- No command touches the pending word, the sticky bits or the fields of the model's own but `payload`. -/
theorem bodyOf_frame {i : Instr} {s s' : State} (h : bodyOf i s = .ok s') :
    s'.cmdq = s.cmdq ∧ s'.errFlags = s.errFlags ∧ s'.params = s.params ∧ s'.turns = s.turns ∧ s'.rdata = s.rdata ∧
      s'.draws = s.draws := by
  rcases bodyOf_ok_cases h with ⟨-, rfl⟩ | ⟨-, rfl⟩ | ⟨_, -, -, rfl⟩ | ⟨_, -, rfl⟩ | ⟨-, rfl⟩ | ⟨_, n, -, -, rfl⟩ |
    ⟨-, -, rfl⟩ | ⟨_, -, hb⟩ | ⟨_, -, -, -, -, rfl⟩ | ⟨-, hb⟩
  · exact ⟨rfl, rfl, rfl, rfl, rfl, rfl⟩
  · exact ⟨rfl, rfl, rfl, rfl, rfl, rfl⟩
  · exact ⟨rfl, rfl, rfl, rfl, rfl, rfl⟩
  · exact ⟨rfl, rfl, rfl, rfl, rfl, rfl⟩
  · exact ⟨rfl, rfl, rfl, rfl, rfl, rfl⟩
  · unfold nodeResults
    split <;> exact ⟨rfl, rfl, rfl, rfl, rfl, rfl⟩
  · exact ⟨rfl, rfl, rfl, rfl, rfl, rfl⟩
  · simp only [bodyLookup, Except.ok.injEq] at hb
    subst hb
    exact ⟨rfl, rfl, rfl, rfl, rfl, rfl⟩
  · exact ⟨rfl, rfl, rfl, rfl, rfl, rfl⟩
  · unfold bodyFlush at hb
    repeat' split at hb
    · simp at hb
    · simp only [Except.ok.injEq] at hb
      subst hb
      exact ⟨rfl, rfl, rfl, rfl, rfl, rfl⟩
    · simp only [Except.ok.injEq] at hb
      subst hb
      exact ⟨rfl, rfl, rfl, rfl, rfl, rfl⟩

@[simp] theorem onNext_next (f : State → State) (s : State) : onNext f (.next s) = .next (f s) := rfl

theorem step_of_engine {s : State} (h : engineNext s = true) : step s = complete (dropTurn s) := by
  unfold engineNext at h
  cases ht : s.turns with
  | nil =>
    have hs : dropTurn s = s := by cases s; simp_all [dropTurn]
    simp [step, ht, hs]
  | cons t rest =>
    cases t with
    | engine => simp [step, ht, takeTurn, dropTurn]
    | host a => simp [ht] at h
    | reset => simp [ht] at h
    | otherMaster a => simp [ht] at h

/-- The head turn of any other kind is taken on the state without it. -/
theorem step_of_turn {s : State} {t : Turn} {rest : List Turn} (h : s.turns = t :: rest) :
    step s = takeTurn t (dropTurn s) := by
  simp [step, h, dropTurn]

theorem step_of_host {s : State} {a : Access} {rest : List Turn} (h : s.turns = .host a :: rest) :
    step s = hostAccess a (dropTurn s) := step_of_turn h

theorem complete_of_none {s : State} (h : s.cmdq = none) : complete s = .next s := by
  simp [complete, h]

theorem complete_of_some {s : State} {w : Word} (h : s.cmdq = some w) :
    complete s = onNext idle (executeWord w s) := by
  simp [complete, h]

theorem busy_eq_false {s : State} : s.busy = false ↔ s.cmdq = none := by simp [State.busy]

theorem busy_eq_true {s : State} : s.busy = true ↔ ∃ w, s.cmdq = some w := by
  simp [State.busy, Option.isSome_iff_exists]

/-- Inversion of `step`: whose turn it was, and what it did. -/
theorem step_cases {s t : State} (h : step s = .next t) :
    (∃ a rest, s.turns = .host a :: rest ∧ hostAccess a (dropTurn s) = .next t) ∨
    (∃ rest, s.turns = .reset :: rest ∧ t = resetEvent (dropTurn s)) ∨
    (engineNext s = true ∧ s.cmdq = none ∧ t = dropTurn s) ∨
    (engineNext s = true ∧ ∃ w, s.cmdq = some w ∧ decode w = .badCmd ∧ t = idle (fail .badCmd (dropTurn s))) ∨
    (engineNext s = true ∧ ∃ w i u, s.cmdq = some w ∧ decode w = .command i ∧ exec i (dropTurn s) = .next u ∧
      t = idle u) := by
  by_cases he : engineNext s = true
  · rw [step_of_engine he] at h
    cases hc : s.cmdq with
    | none =>
      rw [complete_of_none (by simpa using hc)] at h
      exact .inr (.inr (.inl ⟨he, rfl, by simpa using h.symm⟩))
    | some w =>
      rw [complete_of_some (w := w) (by simpa using hc)] at h
      cases hd : decode w with
      | badCmd =>
        simp only [executeWord, hd, onNext_next, Host.Outcome.next.injEq] at h
        exact .inr (.inr (.inr (.inl ⟨he, w, rfl, hd, h.symm⟩)))
      | command i =>
        obtain ⟨u, hu⟩ := exec_goes_on i (dropTurn s)
        simp only [executeWord, hd, hu, onNext_next, Host.Outcome.next.injEq] at h
        exact .inr (.inr (.inr (.inr ⟨he, w, i, u, rfl, hd, hu, h.symm⟩)))
  · cases ht : s.turns with
    | nil => simp [engineNext, ht] at he
    | cons c rest =>
      rw [step_of_turn ht] at h
      cases c with
      | engine => simp [engineNext, ht] at he
      | host a => exact .inl ⟨a, rest, rfl, h⟩
      | reset => exact .inr (.inl ⟨rest, rfl, by simpa [takeTurn] using h.symm⟩)
      | otherMaster a => simp [takeTurn] at h

end Sys2Proof.Machine
end

