-- ==== Sys2Proof/Laws/Bus.lean ====
section
/-! SUPPORT. Which accesses are defined, said once (20_memory.md R62), and the host's accesses by offset. -/

namespace Sys2Proof.Machine

theorem definedOffset_eq_some {p : Params} {a : Access} {off : Nat} :
    definedOffset p a = some off ↔
      a.size = 4 ∧ a.full = true ∧ a.addr = p.hencBase + off ∧ off < 256 ∧ off % 4 = 0 := by
  unfold definedOffset
  constructor
  · intro h
    split at h
    · next hc =>
      obtain ⟨h1, h2, h3, h4, h5⟩ := hc
      have hs : a.addr - p.hencBase = off := by simpa using h
      exact ⟨h1, h2, by omega, by omega, by omega⟩
    · simp at h
  · rintro ⟨h1, h2, h3, h4, h5⟩
    have hs : a.addr - p.hencBase = off := by omega
    rw [if_pos ⟨h1, h2, by omega, by omega, by omega⟩, hs]

theorem definedOffset_readAt {p : Params} {off : Nat} (h : off < 256) (h4 : off % 4 = 0) :
    definedOffset p (readAt p off) = some off :=
  definedOffset_eq_some.2 ⟨rfl, rfl, rfl, h, h4⟩

theorem definedOffset_writeAt {p : Params} {off : Nat} {v : Word} (h : off < 256) (h4 : off % 4 = 0) :
    definedOffset p (writeAt p off v) = some off :=
  definedOffset_eq_some.2 ⟨rfl, rfl, rfl, h, h4⟩

theorem hostAccess_readAt {s : State} {off : Nat} (h : off < 256) (h4 : off % 4 = 0) :
    hostAccess (readAt s.params off) s = .next (readReg (regAt off) s) := by
  simp only [hostAccess, definedOffset_readAt h h4]
  rfl

theorem hostAccess_writeAt {s : State} {off : Nat} {v : Word} (h : off < 256) (h4 : off % 4 = 0) :
    hostAccess (writeAt s.params off v) s = .next (writeReg (regAt off) v s) := by
  simp only [hostAccess, definedOffset_writeAt h h4]
  rfl

/-- A host access goes on exactly when it is defined, and then reads or writes the register of its offset. -/
theorem hostAccess_cases {a : Access} {s t : State} (h : hostAccess a s = .next t) :
    ∃ off, off % 4 = 0 ∧ off < 256 ∧
      ((a = readAt s.params off ∧ t = readReg (regAt off) s) ∨
       ∃ v, a = writeAt s.params off v ∧ t = writeReg (regAt off) v s) := by
  unfold hostAccess at h
  split at h
  · simp at h
  · next off hoff =>
    obtain ⟨h1, h2, h3, h4, h5⟩ := definedOffset_eq_some.1 hoff
    refine ⟨off, h5, h4, ?_⟩
    rcases a with ⟨dir, addr, size, full⟩
    cases dir with
    | read => exact .inl ⟨by simp_all [readAt], by simpa using h.symm⟩
    | write v => exact .inr ⟨v, by simp_all [writeAt], by simpa using h.symm⟩

theorem readReg_of_busy {r : Reg} {s : State} (h : s.busy = true) :
    readReg r s = { (readBusy r s).2 with rdata := (readBusy r s).1 } := by simp [readReg, h]

theorem readReg_of_idle {r : Reg} {s : State} (h : s.busy = false) :
    readReg r s = { (readIdle r s).2 with rdata := (readIdle r s).1 } := by simp [readReg, h]

/-- A read while idle of any register but OUT_DATA changes nothing but the host's read value. -/
theorem readReg_of_idle_ne {r : Reg} {s : State} (h : s.busy = false) (hr : r ≠ .outData) :
    readReg r s = { s with rdata := regWord s r } := by
  rw [readReg_of_idle h]; cases r <;> simp_all [readIdle]

/-- What a read while busy can change (20_memory.md R66): the draw counter. -/
theorem readBusy_state (r : Reg) (s : State) : ∃ n, (readBusy r s).2 = { s with draws := n } := by
  cases r <;> exact ⟨_, rfl⟩

theorem popOutData_nil {s : State} (h : s.ofifo = []) : popOutData s = (0#32, s) := by simp [popOutData, h]

theorem popOutData_cons {s : State} {b : Byte} {bs : List Byte} (h : s.ofifo = b :: bs) :
    popOutData s = ((1#1 ++ b).setWidth 32, { s with ofifo := bs, payload := s.payload ++ [b] }) := by
  simp [popOutData, h]

/-- A write while busy is a busy violation at CMD and ERR_FLAGS and nothing elsewhere (20_memory.md R66). -/
theorem writeReg_of_busy {r : Reg} {v : Word} {s : State} (h : s.busy = true) :
    writeReg r v s = if r = .cmd ∨ r = .errFlags then busyViolation s else s := by
  cases r <;> simp [writeReg, h]

/-- A write to any register but CMD and ERR_FLAGS is ignored (20_memory.md R63, R66). -/
theorem writeReg_ignored {r : Reg} (v : Word) (s : State) (hc : r ≠ .cmd) (he : r ≠ .errFlags) :
    writeReg r v s = s := by
  cases r <;> simp_all [writeReg]

theorem regAt_regOffset (r : Reg) : regAt (regOffset r) = r := by cases r <;> rfl

end Sys2Proof.Machine
end

