-- ==== Sys2Proof/Laws/PerInstr.lean ====
section
/-! SUPPORT. The family EncodesItsRow: the word of a command is selected by a row of the opcode map, the row of its OP
(30_encoding.md R93, R97). -/

namespace Sys2Proof.Laws.EncodesItsRow

/-- The command's word carries the match of a row of the opcode map in the bits of that row's mask, and that row's OP. -/
def Statement (i : Instr) : Prop :=
  ∃ r ∈ opcodeTable, encode i &&& r.mask = r.pattern ∧ r.op = opcodeOf (encode i)

theorem masked_sym (p : Word) (sym : Byte) (h : p &&& 0xFFFFFF00#32 = p) :
    (p ||| sym.setWidth 32) &&& 0xFFFFFF00#32 = p := by
  have hz : sym.setWidth 32 &&& 0xFFFFFF00#32 = 0#32 := by revert sym; decide
  calc (p ||| sym.setWidth 32) &&& 0xFFFFFF00#32
      = (p &&& 0xFFFFFF00#32) ||| (sym.setWidth 32 &&& 0xFFFFFF00#32) := by ext i; simp [Bool.and_or_distrib_right]
    _ = p := by rw [h, hz, BitVec.or_zero]

theorem nop : Statement .nop := ⟨opcodeTable[0], by simp [opcodeTable], by decide, by decide⟩
theorem clear : Statement .clear := ⟨opcodeTable[1], by simp [opcodeTable], by decide, by decide⟩
theorem push (sym : Byte) : Statement (.push sym) :=
  ⟨opcodeTable[2], by simp [opcodeTable], masked_sym _ sym (by decide), by revert sym; decide⟩
theorem rdfreq (sym : Byte) : Statement (.rdfreq sym) :=
  ⟨opcodeTable[3], by simp [opcodeTable], masked_sym _ sym (by decide), by revert sym; decide⟩
theorem build : Statement .build := ⟨opcodeTable[4], by simp [opcodeTable], by decide, by decide⟩
theorem rdnode (idx : NodeIdx) : Statement (.rdnode idx) :=
  ⟨opcodeTable[5], by simp [opcodeTable], by revert idx; decide +kernel, by revert idx; decide +kernel⟩
theorem canon : Statement .canon := ⟨opcodeTable[6], by simp [opcodeTable], by decide, by decide⟩
theorem lookup (sym : Byte) : Statement (.lookup sym) :=
  ⟨opcodeTable[7], by simp [opcodeTable], masked_sym _ sym (by decide), by revert sym; decide⟩
theorem enc (sym : Byte) : Statement (.enc sym) :=
  ⟨opcodeTable[8], by simp [opcodeTable], masked_sym _ sym (by decide), by revert sym; decide⟩
theorem flush : Statement .flush := ⟨opcodeTable[9], by simp [opcodeTable], by decide, by decide⟩

end Sys2Proof.Laws.EncodesItsRow
end

