-- ==== Sys2Proof/Laws/Stream.lean ====
section
/-! SUPPORT. Lengths of the bit strings of 44_lookup_encode.md R176, and what the packer's result holds (R172). -/

namespace Sys2Proof.Machine

@[simp] theorem length_byteBits (b : Byte) : (byteBits b).length = 8 := by simp [byteBits]

@[simp] theorem length_codeBits (c : DWord) (l : Nat) : (codeBits c l).length = l := by simp [codeBits]

@[simp] theorem length_pendingBits (s : State) : (pendingBits s).length = s.accN.toNat := by simp [pendingBits]

@[simp] theorem length_pack_bytes (acc accN c l : Nat) : (pack acc accN c l).bytes.length = (accN + l) / 8 := by
  simp [pack]

theorem pack_accN_lt (acc accN c l : Nat) : (pack acc accN c l).accN < 8 := Nat.mod_lt _ (by decide)

theorem pack_acc_lt (acc accN c l : Nat) : (pack acc accN c l).acc < 2 ^ (pack acc accN c l).accN :=
  Nat.mod_lt _ (Nat.two_pow_pos _)

theorem emitted_pushOut (bs : List Byte) (s : State) : emitted (pushOut bs s) = emitted s ++ bs := by
  simp [emitted]

theorem emitted_popOutData (s : State) : emitted (popOutData s).2 = emitted s := by
  unfold popOutData
  split
  · rfl
  · next b rest h => simp [emitted, h]

end Sys2Proof.Machine
end

