-- ==== Sys2Proof/Laws/Tables.lean ====
section
/-! SUPPORT. The internal arrays: reading after writing, equality element by element, and the list of all symbols. -/

namespace Sys2Proof.Machine

theorem readSym_eq_getElem {α : Type} (t : Table α) (sym : Byte) : readSym t sym = t[sym.toNat]'sym.isLt := rfl

@[simp] theorem readSym_writeSym_same {α : Type} (t : Table α) (sym : Byte) (v : α) :
    readSym (writeSym t sym v) sym = v := by
  simp [readSym_eq_getElem, writeSym]

theorem readSym_writeSym_of_ne {α : Type} (t : Table α) {sym other : Byte} (v : α) (h : other ≠ sym) :
    readSym (writeSym t sym v) other = readSym t other := by
  have hne : sym.toNat ≠ other.toNat := fun he => h (BitVec.eq_of_toNat_eq he.symm)
  simp [readSym_eq_getElem, writeSym, Vector.getElem_set_ne, hne]

theorem readSym_writeSym {α : Type} (t : Table α) (sym other : Byte) (v : α) :
    readSym (writeSym t sym v) other = if other = sym then v else readSym t other := by
  split
  · next h => rw [h, readSym_writeSym_same]
  · next h => exact readSym_writeSym_of_ne t v h

@[simp] theorem readSym_constTable {α : Type} (v : α) (sym : Byte) : readSym (constTable v) sym = v := by
  simp [readSym_eq_getElem, constTable]

/-- Two arrays with the same element for every symbol are equal. -/
theorem table_ext {α : Type} {t u : Table α} (h : ∀ sym, readSym t sym = readSym u sym) : t = u := by
  apply Vector.ext
  intro i hi
  have := h (BitVec.ofNat 8 i)
  simpa [readSym_eq_getElem, Nat.mod_eq_of_lt hi] using this

@[simp] theorem length_symbols : symbols.length = 256 := by simp [symbols]

@[simp] theorem mem_symbols (sym : Byte) : sym ∈ symbols :=
  List.mem_map.2 ⟨sym.toNat, List.mem_range.2 sym.isLt, by simp⟩

theorem getElem_symbols (i : Nat) (h : i < symbols.length) : symbols[i] = BitVec.ofNat 8 i := by
  simp [symbols]

theorem symbols_pairwise_lt : symbols.Pairwise (· < ·) := by
  rw [symbols, List.pairwise_map]
  refine List.Pairwise.imp_of_mem (fun ha hb h => ?_) List.pairwise_lt_range
  have ha := List.mem_range.1 ha
  have hb := List.mem_range.1 hb
  simpa [BitVec.lt_def, Nat.mod_eq_of_lt ha, Nat.mod_eq_of_lt hb] using h

theorem symbols_nodup : symbols.Nodup :=
  symbols_pairwise_lt.imp fun h he => by simp [he] at h

/-- The entries of an array are its symbols with what reading them gives. -/
theorem entries_eq_map {α : Type} (t : Table α) : entries t = symbols.map fun sym => (sym, readSym t sym) := by
  apply List.ext_getElem
  · simp [entries]
  · intro i h1 h2
    have hi : i < 256 := by simpa using h2
    simp [entries, getElem_symbols, readSym_eq_getElem, Nat.mod_eq_of_lt hi]

/-- A list made of every symbol and its element is made of the entries. -/
theorem symbols_map_readSym {α β : Type} (t : Table α) (f : Byte → α → β) :
    (symbols.map fun sym => f sym (readSym t sym)) = (entries t).map fun p => f p.1 p.2 := by
  simp [entries_eq_map, Function.comp_def]

theorem alphabet_eq_entries (freq : Table Word) :
    alphabet freq = ((entries freq).filter fun p => p.2 != 0#32).map Prod.fst := by
  simp [alphabet, entries_eq_map, List.filter_map, Function.comp_def]

theorem freqSum_eq_entries (freq : Table Word) :
    freqSum freq = ((entries freq).map fun p => p.2.toNat).sum := by
  simp [freqSum, entries_eq_map, Function.comp_def]

theorem mem_alphabet (freq : Table Word) (sym : Byte) : sym ∈ alphabet freq ↔ readSym freq sym ≠ 0#32 := by
  simp [alphabet]

theorem alphabet_nodup (freq : Table Word) : (alphabet freq).Nodup := symbols_nodup.filter _

theorem length_alphabet_le (freq : Table Word) : (alphabet freq).length ≤ 256 := by
  rw [alphabet, ← length_symbols]
  exact List.length_filter_le _ symbols

end Sys2Proof.Machine
end

