-- ==== Sys2Proof/Laws/Tree.lean ====
section
/-! SUPPORT. The lengths of the lists the tree builder works on, and unfoldings of its loops
(42_tree_builder.md R141 to R147). -/

namespace Sys2Proof.Machine

/-- Seeding, symbol by symbol. -/
theorem seedLeaves_eq_map (freq : Table Word) :
    seedLeaves freq = (alphabet freq).map fun sym => leafNode sym (readSym freq sym) := by
  simp [seedLeaves, alphabet, entries_eq_map, List.filter_map, Function.comp_def]

@[simp] theorem length_seedLeaves (freq : Table Word) : (seedLeaves freq).length = (alphabet freq).length := by
  simp [seedLeaves_eq_map]

@[simp] theorem length_leafKeys (leaves : List Node) : (leafKeys leaves).length = leaves.length := by
  simp [leafKeys]

theorem popLeast_eq_none {ks : List Key} : popLeast ks = none ↔ ks = [] := by
  cases ks with
  | nil => simp [popLeast]
  | cons k ks =>
    simp only [popLeast, reduceCtorEq, iff_false]
    split
    · simp
    · split <;> simp

theorem length_of_popLeast {ks rest : List Key} {k : Key} (h : popLeast ks = some (k, rest)) :
    ks.length = rest.length + 1 := by
  induction ks generalizing k rest with
  | nil => simp [popLeast] at h
  | cons x xs ih =>
    simp only [popLeast] at h
    split at h
    · next hn => simp_all [popLeast_eq_none.1 hn]
    · next m r hm =>
      have := ih hm
      split at h
      · simp at h; simp [← h.2]
      · simp at h; simp [← h.2]; omega

/-- What `popLeast` gives up and what it leaves are the structure it was given. -/
theorem perm_of_popLeast {ks rest : List Key} {k : Key} (h : popLeast ks = some (k, rest)) : ks.Perm (k :: rest) := by
  induction ks generalizing k rest with
  | nil => simp [popLeast] at h
  | cons x xs ih =>
    simp only [popLeast] at h
    split at h
    · next hn =>
      simp only [Option.some.injEq, Prod.mk.injEq] at h
      obtain ⟨rfl, rfl⟩ := h
      rw [popLeast_eq_none.1 hn]
    · next m r hm =>
      split at h
      · simp only [Option.some.injEq, Prod.mk.injEq] at h
        obtain ⟨rfl, rfl⟩ := h
        exact List.Perm.refl _
      · simp only [Option.some.injEq, Prod.mk.injEq] at h
        obtain ⟨rfl, rfl⟩ := h
        exact ((ih hm).cons x).trans (List.Perm.swap _ _ _)

theorem mergeLoop_stops (fuel : Nat) (arena : List Node) (active : List Key) (h : active.length ≤ 1) :
    mergeLoop fuel arena active = arena := by
  cases fuel with
  | zero => rfl
  | succ f =>
    match active, h with
    | [], _ => simp [mergeLoop, popLeast]
    | [k], _ => simp [mergeLoop, popLeast]

@[simp] theorem childrenOf_append (ms ns : List Node) : childrenOf (ms ++ ns) = childrenOf ms ++ childrenOf ns := by
  simp [childrenOf]

@[simp] theorem childrenBefore_zero (arena : List Node) : childrenBefore arena 0 = [] := rfl

/-- One entry more: its children, if it is internal. -/
theorem childrenBefore_succ {arena : List Node} {i : Nat} {n : Node} (h : arena[i]? = some n) :
    childrenBefore arena (i + 1) =
      childrenBefore arena i ++ (if n.kind = .internal then [n.left.toNat, n.right.toNat] else []) := by
  simp only [childrenBefore, List.take_add_one, h, List.filter_append, childrenOf_append]
  split <;> simp_all [childrenOf]

theorem childrenBefore_of_length_le {arena : List Node} {n : Nat} (h : arena.length ≤ n) :
    childrenBefore arena n = childrenOf (arena.filter fun m => m.kind = .internal) := by
  rw [childrenBefore, List.take_of_length_le h]

@[simp] theorem length_setDepth (arena : List Node) (i : Nat) (d : Byte) :
    (setDepth arena i d).length = arena.length := by simp [setDepth]

@[simp] theorem length_depthRound (arena : List Node) (i : Nat) : (depthRound arena i).length = arena.length := by
  unfold depthRound; split <;> simp

@[simp] theorem length_foldl_depthRound (is : List Nat) (arena : List Node) :
    (is.foldl depthRound arena).length = arena.length := by
  induction is generalizing arena with
  | nil => rfl
  | cons i is ih => simp [ih]

@[simp] theorem length_assignDepths (n : Nat) (arena : List Node) : (assignDepths n arena).length = arena.length := by
  unfold assignDepths
  split
  · rw [length_foldl_depthRound, length_setDepth]
  · rfl

end Sys2Proof.Machine
end

