-- ==== Sys2Proof/Tests/Slice0.lean ====
section
/-! SUPPORT. Tests with results from spec/95_test_vectors.md (the vector's name stands in each comment) or worked out by
hand from the rule named, and a witness for the hypotheses of every obligation. -/

namespace Sys2Proof.Tests

open Sys2Proof Sys2Proof.Machine

/-! ### Helpers -/

def isNext : Host.Outcome State Fault Refusal → Bool
  | .next _ => true
  | .fault _ => false
  | .refused _ => false

/-- The state an outcome goes on in. -/
def after : Host.Outcome State Fault Refusal → State
  | .next s => s
  | .fault _ => State.reset
  | .refused _ => State.reset

theorem eq_next_after {o : Host.Outcome State Fault Refusal} (h : isNext o = true) : o = .next (after o) := by
  cases o <;> simp_all [isNext, after]

/-- The command `i` run to its completion. -/
def did (i : Instr) (s : State) : State := after (exec i s)

/-- Commands run from a state. -/
def ran (is : List Instr) (s : State) : State := is.foldl (fun s i => did i s) s

/-- An internal array that is zero but for the listed symbols. -/
def table {n : Nat} (l : List (Byte × BitVec n)) : Table (BitVec n) :=
  l.foldl (fun t p => writeSym t p.1 p.2) (constTable 0)

/-- A state in HIST with the listed counts. -/
def withCounts (l : List (Byte × Word)) : State := { State.reset with freq := table l }

def ties : State := withCounts [(0x61#8, 1#32), (0x62#8, 1#32), (0x63#8, 1#32), (0x64#8, 2#32)]
def fibonacci : State :=
  withCounts [(0x61#8, 1#32), (0x62#8, 1#32), (0x63#8, 2#32), (0x64#8, 3#32), (0x65#8, 5#32), (0x66#8, 8#32)]

/-- A state in CODES with OFIFO_DEPTH = 8 and a full FIFO. -/
def fullFifo : State :=
  { State.reset with phase := .codes, params := ⟨8#16, 0⟩, ofifo := List.replicate 8 0xAA#8 }

/-- The state with a turn to take. -/
def turn (t : Turn) (s : State) : State := { s with turns := [t] }

def read (off : Nat) (s : State) : State := after (step (turn (.host (readAt s.params off)) s))
def write (off : Nat) (v : Word) (s : State) : State := after (step (turn (.host (writeAt s.params off v)) s))

/-- Counts a4 b3 c2: the input "aaaabbbcc" of program P1. -/
def p1Hist : State :=
  { State.reset with total := 9#32, nsym := 3#9, freq := table [(0x61#8, 4#32), (0x62#8, 3#32), (0x63#8, 2#32)] }
def p1Tree : State := did .build p1Hist
def p1Codes : State := did .canon p1Tree

/-- P1 after its ninth ENC. -/
def p1NinthEnc : State := { p1Codes with acc := 0b101111#7, accN := 6#3, ofifo := [0x0A#8] }

/-- The input "ab" in each phase, reached by commands from reset. -/
def abHist : State := ran [.push 0x61#8, .push 0x62#8] State.reset
def abTree : State := did .build abHist
def abCodes : State := did .canon abTree
def abDone : State := ran [.enc 0x61#8, .enc 0x62#8, .flush] abCodes

/-- A NOP is pending. -/
def busyNop : State := { State.reset with cmdq := some 0#32 }

/-! ### Well-formed words: one ill-formed word for each check of 30_encoding.md R92 -/

theorem test_wf_refuses_undefined_op : opDefined 0x50000000#32 = false ∧ wellFormed 0x50000000#32 = false := by decide
theorem test_wf_refuses_rsv : rsvZero 0x10010061#32 = false ∧ wellFormed 0x10010061#32 = false := by decide
theorem test_wf_refuses_operand_n : operandFits .N 0x00000001#32 = false ∧ wellFormed 0x00000001#32 = false := by decide
theorem test_wf_refuses_operand_s : operandFits .S 0x10000161#32 = false ∧ wellFormed 0x10000161#32 = false := by decide
theorem test_wf_refuses_operand_i : operandFits .I 0x21000200#32 = false ∧ wellFormed 0x21000200#32 = false := by decide
theorem test_wf_accepts : wellFormed 0x10000061#32 = true ∧ wellFormed 0x210001FF#32 = true := by decide

/-! ### Decoding: every constructor's word, OP RSV IMM16 bit by bit (30_encoding.md R90, R93) -/

theorem test_decode_nop : decode 0b00000000_00000000_0000000000000000#32 = .command .nop := by decide
theorem test_decode_clear : decode 0b00000001_00000000_0000000000000000#32 = .command .clear := by decide
theorem test_decode_push : decode 0b00010000_00000000_0000000001100001#32 = .command (.push 0x61#8) := by decide
theorem test_decode_rdfreq : decode 0b00010001_00000000_0000000001100010#32 = .command (.rdfreq 0x62#8) := by decide
theorem test_decode_build : decode 0b00100000_00000000_0000000000000000#32 = .command .build := by decide
theorem test_decode_rdnode : decode 0b00100001_00000000_0000000100000011#32 = .command (.rdnode 259#9) := by decide
theorem test_decode_canon : decode 0b00110000_00000000_0000000000000000#32 = .command .canon := by decide
theorem test_decode_lookup : decode 0b01000000_00000000_0000000001100010#32 = .command (.lookup 0x62#8) := by decide
theorem test_decode_enc : decode 0b01000001_00000000_0000000011111111#32 = .command (.enc 0xFF#8) := by decide
theorem test_decode_flush : decode 0b01000010_00000000_0000000000000000#32 = .command .flush := by decide

/-- V-CTL-1 to V-CTL-8: the illegal words. -/
theorem test_decode_rejects : [0x50000000#32, 0x10010061#32, 0x10000161#32, 0x00000001#32, 0x01000080#32, 0x21000200#32,
    0x420000FF#32, 0xFFFFFFFF#32].all (fun w => decode w == .badCmd) = true := by decide

/-- No word is selected by two rows of the opcode map. -/
theorem test_rows_do_not_overlap :
    opcodeTable.Pairwise (fun a b => (a.pattern ^^^ b.pattern) &&& a.mask &&& b.mask ≠ 0#32) := by decide

theorem test_table_word : decodeTableWord 32 0x210001FF = some (.rdnode 511#9) ∧
    decodeTableWord 32 0x50000000 = none := by decide

/-! ### Control commands -/

/-- V-CTL-10: STATUS = 0x22, ERR_FLAGS = 0x04, then NOP. -/
theorem test_nop : statusWord (did .nop { State.reset with phase := .tree, lastErr := .phase, errFlags := 0b10#7 }) =
    0x00000002#32 := by decide

/-- V-CTL-12: CLEAR discards the FIFO byte and the pending bits; ERR_FLAGS is kept (V-CTL-11). -/
theorem test_clear : (let t := did .clear { p1NinthEnc with errFlags := 0b0001010#7 }
    statusWord t = 0#32 ∧ errFlagsWord t = 0x14#32 ∧ t.total = 0#32 ∧ t.ofifo = []) := by decide +kernel

/-! ### Histogram -/

/-- V-HIST-1. -/
theorem test_push : (let t := did (.push 0x61#8) State.reset
    readSym t.freq 0x61#8 = 1#32 ∧ t.total = 1#32 ∧ t.nsym = 1#9 ∧ statusWord t = 0#32) := by decide +kernel

/-- V-HIST-6. -/
theorem test_push_capacity : (let t := did (.push 0x61#8) { State.reset with total := 0xFFFFFFFF#32 }
    t.total = 0xFFFFFFFF#32 ∧ readSym t.freq 0x61#8 = 0#32 ∧ statusWord t = 0x50#32 ∧ errFlagsWord t = 0x20#32) := by
  decide +kernel

/-- V-HIST-4. -/
theorem test_rdfreq : (let t := did (.rdfreq 0x62#8) p1Hist
    t.res0 = 3#32 ∧ t.res1 = 0#32 ∧ t.res2 = 0#32) := by decide +kernel

/-! ### Tree builder -/

/-- V-TREE-4: ties go to the lower index; the arena's children and weights. -/
theorem test_build_ties : (let t := did .build ties
    treeInfoWord t = 0x80060007#32 ∧ t.maxlen = 2#8 ∧
      (t.node.drop 4).map (fun n => (n.w, n.left, n.right)) =
        [(2#32, 0#9, 1#9), (3#32, 2#9, 3#9), (5#32, 4#9, 5#9)]) := by decide +kernel

/-- V-TREE-8: Fibonacci weights a1 b1 c2 d3 e5 f8. -/
theorem test_build_deep : (let t := did .build fibonacci
    treeInfoWord t = 0x800A000B#32 ∧ t.maxlen = 5#8 ∧
      [0x61#8, 0x62#8, 0x63#8, 0x64#8, 0x65#8, 0x66#8].map (readSym t.len) = [5#8, 5#8, 4#8, 3#8, 2#8, 1#8]) := by
  decide +kernel

/-- V-TREE-10: RDNODE 0 and RDNODE 3 of the P1 tree. -/
theorem test_rdnode : (let t := did (.rdnode 0#9) p1Tree
    let u := did (.rdnode 3#9) p1Tree
    (t.res0, t.res1, t.res2) = (4#32, 0x80000061#32, 0#32) ∧
      (u.res0, u.res1, u.res2) = (5#32, 0#32, 0x00010002#32)) := by decide +kernel

/-- V-TREE-10: RDNODE 5 fails with E_RANGE. -/
theorem test_rdnode_range : (did (.rdnode 5#9) p1Tree).lastErr = .range := by decide +kernel

/-! ### Canonical codes -/

/-- V-CANON-7: rule R161 alone, on lengths A3 B3 C3 D3 E3 F2 G4 H4. -/
theorem test_canonical_codes : (let len := table [(0x41#8, 3#8), (0x42#8, 3#8), (0x43#8, 3#8), (0x44#8, 3#8),
      (0x45#8, 3#8), (0x46#8, 2#8), (0x47#8, 4#8), (0x48#8, 4#8)]
    [0x41#8, 0x42#8, 0x43#8, 0x44#8, 0x45#8, 0x46#8, 0x47#8, 0x48#8].map (readSym (canonicalCodes len 4)) =
      [0b010#64, 0b011#64, 0b100#64, 0b101#64, 0b110#64, 0b00#64, 0b1110#64, 0b1111#64]) := by decide +kernel

/-- V-CANON-8: MAXLEN = 65 in TREE. -/
theorem test_canon_capacity : (let t := did .canon { State.reset with phase := .tree, maxlen := 65#8 }
    t.phase = .tree ∧ statusWord t = 0x52#32) := by decide +kernel

/-! ### Lookup, encode, flush -/

/-- V-ENC-1 and V-ENC-2. -/
theorem test_lookup : (let t := did (.lookup 0x62#8) p1Codes
    let u := did (.lookup 0x7A#8) p1Codes
    (t.res0, t.res1, t.res2) = (2#32, 0#32, 2#32) ∧ (u.res0, u.res1, u.res2, u.lastErr) = (0#32, 0#32, 0#32, .ok)) := by
  decide +kernel

/-- V-ENC-5: the second 'b' of P1 pushes 0x0A. -/
theorem test_enc : (let t := did (.enc 0x62#8) { p1Codes with acc := 0b000010#7, accN := 6#3 }
    t.ofifo = [0x0A#8] ∧ statusWord t = 0x00011004#32) := by decide +kernel

/-- V-ENC-13: one byte needed, none free. -/
theorem test_enc_full : (let t := did (.enc 0x08#8) { fullFifo with len := constTable 8#8 }
    statusWord t = 0x00083064#32) := by decide +kernel

/-- V-ENC-6: the end of P1. -/
theorem test_flush : (let t := did .flush p1NinthEnc
    t.ofifo = [0x0A#8, 0xBC#8] ∧ statusWord t = 0x00021006#32) := by decide +kernel

/-- V-ENC-11: a partial byte and a full FIFO. -/
theorem test_flush_full : (let t := did .flush { fullFifo with acc := 0b10#7, accN := 2#3 }
    statusWord t = 0x00083264#32 ∧ errFlagsWord t = 0x40#32) := by decide +kernel

/-- V-PACK-1 to V-PACK-7. -/
theorem test_pack :
    pack 0 0 1 1 = ⟨[], 1, 1⟩ ∧ pack 0x7F 7 1 1 = ⟨[0xFF#8], 0, 0⟩ ∧ pack 5 3 0x3FE 10 = ⟨[0xBF#8], 0b11110, 5⟩ ∧
    pack 0x7F 7 (2 ^ 64 - 1) 64 = ⟨List.replicate 8 0xFF#8, 0x7F, 7⟩ ∧ pack 0 0 0 8 = ⟨[0#8], 0, 0⟩ ∧
    pack 1 1 0 64 = ⟨0x80#8 :: List.replicate 7 0#8, 0, 1⟩ ∧ pack 2 2 0b1011 4 = ⟨[], 0b101011, 6⟩ := by decide +kernel

/-! ### Registers, busy violations, reset -/

/-- V-BUS-1, V-BUS-2, V-BUS-3 (OFIFO_DEPTH = 16). -/
theorem test_identification : (read 0x00 State.reset).rdata = 0x48454E43#32 ∧
    (read 0x04 State.reset).rdata = 0x00010000#32 ∧ (read 0x08 State.reset).rdata = 0x20400010#32 := by decide +kernel

/-- V-BUS-7 and V-BUS-8. -/
theorem test_out_data : (let s := read 0x3C { State.reset with ofifo := [0x0A#8, 0xBC#8] }
    s.rdata = 0x10A#32 ∧ s.ofifo = [0xBC#8] ∧ (read 0x3C { s with ofifo := [0#8] }).rdata = 0x100#32 ∧
      (read 0x3C { s with ofifo := [] }).rdata = 0#32) := by decide +kernel

/-- V-BUS-9 to V-BUS-11. -/
theorem test_err_flags_write :
    errFlagsWord (write 0x14 0x10#32 { State.reset with errFlags := (0x94#8).extractLsb' 1 7 }) = 0x84#32 ∧
    errFlagsWord (write 0x14 0xFFFFFFFF#32 { State.reset with errFlags := (0x84#8).extractLsb' 1 7 }) = 0#32 ∧
    errFlagsWord (write 0x14 0x01#32 { State.reset with errFlags := (0x02#8).extractLsb' 1 7 }) = 0x02#32 := by
  decide +kernel

/-- V-BUS-12: an access at offset 0x3E, and one of 8 bits. -/
theorem test_bad_access : definedOffset Params.reference ⟨.read, 0x3E, 4, true⟩ = none ∧
    definedOffset Params.reference ⟨.read, 0, 1, true⟩ = none ∧
    definedOffset Params.reference ⟨.read, 0x100, 4, true⟩ = none := by decide

/-- V-BUSY-1: the second CMD write is lost and sets bit 7 of ERR_FLAGS. -/
theorem test_busy_write : (let s := write 0x0C 0x10000062#32 (write 0x0C 0x10000061#32 State.reset)
    s.cmdq = some 0x10000061#32 ∧ errFlagsWord s = 0x80#32) := by decide +kernel

/-- V-CTL-1: an undefined OP, issued and completed. -/
theorem test_bad_command : (let t := after (step (State.reset.withFetchWord 32 0x50000000))
    statusWord t = 0x10#32 ∧ errFlagsWord t = 0x02#32 ∧ t.busy = false) := by decide +kernel

/-- V-RST-2: a reset discards a pending PUSH. -/
theorem test_reset : (let t := after (step (turn .reset (write 0x0C 0x10000061#32 State.reset)))
    statusWord t = 0#32 ∧ t.total = 0#32 ∧ t.busy = false) := by decide +kernel

/-! ### The states of the witnesses meet the invariant -/

theorem inv_abHist : Inv abHist where
  total_is_sum := by rw [freqSum_eq_entries]; decide +kernel
  nsym_counts := by rw [alphabet_eq_entries]; decide +kernel
  hist_tree := by decide +kernel
  tree_of_counts := by decide +kernel
  no_codes := by decide +kernel
  codes_of_lengths := by decide +kernel
  no_output := by decide +kernel
  codes_bits := by decide +kernel
  done_bits := by decide +kernel
  acc_fits := by decide +kernel
  fifo_fits := by decide +kernel
  bits_bounded := by decide +kernel
  err_legal := by decide +kernel
  params_legal := by decide +kernel

theorem inv_abCodes : Inv abCodes where
  total_is_sum := by rw [freqSum_eq_entries]; decide +kernel
  nsym_counts := by rw [alphabet_eq_entries]; decide +kernel
  hist_tree := by decide +kernel
  tree_of_counts := by decide +kernel
  no_codes := by decide +kernel
  codes_of_lengths := by decide +kernel
  no_output := by decide +kernel
  codes_bits := by decide +kernel
  done_bits := by decide +kernel
  acc_fits := by decide +kernel
  fifo_fits := by decide +kernel
  bits_bounded := by decide +kernel
  err_legal := by decide +kernel
  params_legal := by decide +kernel

theorem inv_abDone : Inv abDone where
  total_is_sum := by rw [freqSum_eq_entries]; decide +kernel
  nsym_counts := by rw [alphabet_eq_entries]; decide +kernel
  hist_tree := by decide +kernel
  tree_of_counts := by decide +kernel
  no_codes := by decide +kernel
  codes_of_lengths := by decide +kernel
  no_output := by decide +kernel
  codes_bits := by decide +kernel
  done_bits := by decide +kernel
  acc_fits := by decide +kernel
  fifo_fits := by decide +kernel
  bits_bounded := by decide +kernel
  err_legal := by decide +kernel
  params_legal := by decide +kernel

/-! ### A witness for the hypotheses of each obligation -/

theorem witness_AcceptedWordsAreEncodings : decode 0x21000103#32 = .command (.rdnode 259#9) := by decide

theorem witness_CmdWriteIssuesWhileIdleOnly :
    (∃ s : State, s.turns = .host (writeAt s.params 0x0C 5#32) :: [] ∧ s.busy = false) ∧
    (∃ s : State, s.turns = .host (writeAt s.params 0x0C 5#32) :: [] ∧ s.busy = true) :=
  ⟨⟨turn (.host (writeAt Params.reference 0x0C 5#32)) State.reset, rfl, rfl⟩,
    ⟨turn (.host (writeAt Params.reference 0x0C 5#32)) busyNop, rfl, rfl⟩⟩

theorem witness_StepRunsTheDecodedCommand :
    (∃ s t : State, engineNext s = true ∧ s.cmdq = some 0#32 ∧ decode 0#32 = .command .nop ∧
      exec .nop (dropTurn s) = .next t) ∧
    ∃ t, exec .build { State.reset with cmdq := some (encode .build) } = .next t :=
  ⟨⟨busyNop, _, by decide, rfl, by decide, eq_next_after (by decide)⟩, _, eq_next_after (by decide +kernel)⟩

theorem witness_IllegalWordCompletesWithBadCmd :
    ∃ s : State, engineNext s = true ∧ s.cmdq = some 0x50000000#32 ∧ wellFormed 0x50000000#32 = false :=
  ⟨State.reset.withFetchWord 32 0x50000000, by decide, by decide, by decide⟩

theorem witness_EveryPendingCommandCompletes : engineNext busyNop = true ∧ busyNop.cmdq = some 0#32 := by decide

theorem witness_EngineHasNoStepWhileIdle : engineNext State.reset = true ∧ State.reset.busy = false := by decide

theorem witness_PhaseErrorExactlyWhereTheTableSaysSo :
    State.reset.phase ∉ legalPhases .canon ∧ State.reset.phase ∈ legalPhases .build := by decide

theorem witness_FailedCommandsArePrecise :
    (∃ t, exec .canon State.reset = .next t ∧ t.lastErr ≠ .ok) ∧ ∃ t, exec .nop State.reset = .next t ∧ t.lastErr = .ok :=
  ⟨⟨_, eq_next_after (by decide +kernel), by decide +kernel⟩, _, eq_next_after (by decide), by decide⟩

theorem witness_OnlyTheseEventsChangePhase :
    ∃ s t : State, step s = .next t ∧ t.phase ≠ s.phase :=
  ⟨State.reset.withFetchWord 32 0x20000000, _, eq_next_after (by decide +kernel), by decide +kernel⟩

theorem witness_PushCountsItsByte : State.reset.phase = .hist ∧ State.reset.total ≠ 0xFFFFFFFF#32 := by decide

theorem witness_PushBeyondTheLastCountFails :
    ∃ s : State, s.phase = .hist ∧ s.total = 0xFFFFFFFF#32 := ⟨{ State.reset with total := 0xFFFFFFFF#32 }, rfl, rfl⟩

theorem witness_HistogramDependsOnTheMultisetOnly :
    [1#8, 2#8].Perm [2#8, 1#8] ∧ State.reset.phase = .hist ∧ State.reset.total.toNat + 2 < 2 ^ 32 ∧
      State.reset.freq = constTable 0#32 ∧ State.reset.nsym = 0#9 :=
  ⟨by decide, rfl, by decide, rfl, rfl⟩

theorem witness_RemovedKeyIsTheLeast :
    popLeast [⟨1#32, 2⟩, ⟨2#32, 3⟩, ⟨2#32, 4⟩] = some (⟨1#32, 2⟩, [⟨2#32, 3⟩, ⟨2#32, 4⟩]) ∧
      ([⟨1#32, 2⟩, ⟨2#32, 3⟩, ⟨2#32, 4⟩].map Key.idx).Nodup := by decide

/-- The built trees' statements: an input of no, of one and of several symbols. -/
theorem witness_BuildStatements :
    (∃ t, exec .build State.reset = .next t ∧ (alphabet State.reset.freq).length = 0) ∧
    (∃ s t : State, s.phase = .hist ∧ exec .build s = .next t ∧ (alphabet s.freq).length = 1 ∧ t.nnodes = 1) ∧
    (abHist.phase = .hist ∧ ∃ t, exec .build abHist = .next t ∧ 2 ≤ (alphabet abHist.freq).length ∧ t.nnodes ≠ 1 ∧
      t.node[2]?.any (fun n => n.kind = .internal) = true ∧ t.node[0]?.any (fun n => n.kind = .leaf) = true ∧
      readSym abHist.freq 0x61#8 ≠ 0#32 ∧ readSym abHist.freq 0x7A#8 = 0#32) :=
  ⟨⟨_, eq_next_after (by decide +kernel), by decide +kernel⟩,
    ⟨{ State.reset with freq := table [(0x78#8, 5#32)] }, _, rfl, eq_next_after (by decide +kernel), by decide +kernel,
      by decide +kernel⟩,
    by decide +kernel, _, eq_next_after (by decide +kernel), by decide +kernel, by decide +kernel, by decide +kernel,
      by decide +kernel, by decide +kernel, by decide +kernel⟩

/-- In V-TREE-4's tree the first internal node, entry 4, is made while entries 2 (of its right child's weight) and 3 (of a
greater one) have no parent. -/
theorem witness_BuiltTreeOwnsEveryNodeOnce :
    ties.phase = .hist ∧ ∃ t, exec .build ties = .next t ∧ t.node[4]?.any (fun n => n.kind = .internal) = true ∧
      2 ∉ childrenBefore t.node 5 ∧ 3 ∉ childrenBefore t.node 5 ∧
      [1, 2, 3].map (fun j => t.node[j]?.map Node.w) = [some 1#32, some 1#32, some 2#32] :=
  ⟨by decide +kernel, _, eq_next_after (by decide +kernel), by decide +kernel, by decide +kernel, by decide +kernel,
    by decide +kernel⟩

theorem witness_RootWeighsTheInput :
    Inv abHist ∧ abHist.phase = .hist ∧ ∃ t n, exec .build abHist = .next t ∧ t.node.getLast? = some n :=
  ⟨inv_abHist, by decide +kernel, abTree,
    { kind := .internal, w := 2#32, sym := 0#8, left := 0#9, right := 1#9, depth := 0#8 },
    eq_next_after (by decide +kernel), by decide +kernel⟩

theorem witness_RdnodeReadsAnEntry : p1Tree.phase ≠ .hist ∧
    p1Tree.node[(0#9).toNat]?.any (fun n => n.kind = .leaf) = true ∧
    p1Tree.node[(4#9).toNat]?.any (fun n => n.kind = .internal) = true ∧
    p1Tree.nnodes ≤ (5#9).toNat := by decide +kernel

theorem witness_CanonAssignsTheCanonicalCodes :
    ∃ s : State, s.phase = .tree ∧ s.maxlen.toNat ≤ 64 ∧ (∀ sym, readSym s.len sym ≤ s.maxlen) ∧
      readSym s.len 0x61#8 ≠ 0#8 ∧ readSym s.len 0x7A#8 = 0#8 :=
  ⟨{ State.reset with phase := .tree, maxlen := 1#8, len := writeSym (constTable 0#8) 0x61#8 1#8 }, rfl, by decide,
    fun sym => by rw [readSym_writeSym, readSym_constTable]; split <;> decide, by decide, by decide⟩

theorem witness_CanonBeyondTheCodeWidthFails :
    ∃ s : State, s.phase = .tree ∧ 64 < s.maxlen.toNat :=
  ⟨{ State.reset with phase := .tree, maxlen := 65#8 }, rfl, by decide⟩

theorem witness_CanonicalCodes :
    (Inv abCodes ∧ abCodes.phase = .codes) ∧ (Inv abDone ∧ abDone.phase = .done) ∧
    readSym abCodes.len 0x61#8 = readSym abCodes.len 0x62#8 ∧ readSym abCodes.len 0x61#8 ≠ 0#8 ∧
    (∀ z : Byte, 0x61#8 < z → z < 0x62#8 → readSym abCodes.len z ≠ readSym abCodes.len 0x61#8) ∧
    2 ≤ abCodes.nsym.toNat :=
  ⟨⟨inv_abCodes, by decide +kernel⟩, ⟨inv_abDone, by decide +kernel⟩, by decide +kernel, by decide +kernel,
    by decide +kernel, by decide +kernel⟩

theorem witness_EncodedSymbolsAreRecoverable :
    Inv abCodes ∧ abCodes.phase = .codes ∧ (∀ x ∈ [0x61#8, 0x62#8], readSym abCodes.len x ≠ 0#8) ∧
    [0x61#8, 0x62#8].flatMap (symbolBits abCodes.len abCodes.code) ++ [false] =
      [0x61#8, 0x62#8].flatMap (symbolBits abCodes.len abCodes.code) ++ [false] :=
  ⟨inv_abCodes, by decide +kernel, by decide +kernel, rfl⟩

theorem witness_LookupReadsTheCode : abCodes.phase = .codes ∧ abDone.phase = .done := by decide +kernel

theorem witness_EncAppendsTheCodeToTheStream :
    abCodes.phase = .codes ∧ readSym abCodes.len 0x61#8 ≠ 0#8 ∧ abCodes.encCount ≠ 0xFFFFFFFF#32 ∧
    (abCodes.accN.toNat + (readSym abCodes.len 0x61#8).toNat) / 8 ≤
      abCodes.params.ofifoDepth.toNat - abCodes.ofifo.length := by decide +kernel

theorem witness_EncErrorsInOrder :
    (abCodes.phase = .codes ∧ readSym abCodes.len 0x7A#8 = 0#8) ∧
    (∃ s : State, s.phase = .codes ∧ readSym s.len 0x61#8 ≠ 0#8 ∧ s.encCount = 0xFFFFFFFF#32) ∧
    (∃ s : State, s.phase = .codes ∧ readSym s.len 0x61#8 ≠ 0#8 ∧ s.encCount ≠ 0xFFFFFFFF#32 ∧
      s.params.ofifoDepth.toNat - s.ofifo.length < (s.accN.toNat + (readSym s.len 0x61#8).toNat) / 8) :=
  ⟨by decide +kernel, ⟨{ abCodes with encCount := 0xFFFFFFFF#32 }, by decide +kernel⟩,
    ⟨{ abCodes with accN := 7#3, ofifo := List.replicate 16 0#8 }, by decide +kernel⟩⟩

theorem witness_EncWithAnEmptyFifoSucceeds :
    Inv abCodes ∧ abCodes.phase = .codes ∧ abCodes.ofifo = [] ∧ readSym abCodes.len 0x61#8 ≠ 0#8 ∧
      abCodes.encCount ≠ 0xFFFFFFFF#32 :=
  ⟨inv_abCodes, by decide +kernel, by decide +kernel, by decide +kernel, by decide +kernel⟩

theorem witness_FlushPadsAndEndsTheStream :
    (abCodes.phase = .codes ∧ abCodes.accN = 0#3) ∧
    (∃ s : State, s.phase = .codes ∧ s.accN ≠ 0#3 ∧ s.ofifo.length ≠ s.params.ofifoDepth.toNat) ∧
    (∃ s : State, s.phase = .codes ∧ s.accN ≠ 0#3 ∧ s.ofifo.length = s.params.ofifoDepth.toNat) :=
  ⟨by decide +kernel, ⟨{ abCodes with accN := 1#3 }, by decide +kernel⟩,
    ⟨{ abCodes with accN := 1#3, ofifo := List.replicate 16 0#8 }, by decide +kernel⟩⟩

theorem witness_EncodePassAppendsEveryCode :
    ∃ t, encodePass [(0x61#8, 0), (0x62#8, 1)] abCodes = some t :=
  ⟨(encodePass [(0x61#8, 0), (0x62#8, 1)] abCodes).getD State.reset, by decide +kernel⟩

theorem witness_PayloadLengthAfterFlush : Inv abDone ∧ abDone.phase = .done := ⟨inv_abDone, by decide +kernel⟩

/-- Reads while idle: each offset a statement names. -/
theorem witness_IdleReads :
    ∀ off, ∃ s : State, s.turns = .host (readAt s.params off) :: [] ∧ s.busy = false :=
  fun off => ⟨turn (.host (readAt State.reset.params off)) State.reset, rfl, rfl⟩

theorem witness_OutDataReadPopsTheHead :
    (∃ s : State, s.turns = .host (readAt s.params 0x3C) :: [] ∧ s.busy = true) ∧
    (∃ s : State, s.turns = .host (readAt s.params 0x3C) :: [] ∧ s.busy = false ∧ s.ofifo = []) ∧
    (∃ s : State, s.turns = .host (readAt s.params 0x3C) :: [] ∧ s.busy = false ∧ s.ofifo = [5#8]) :=
  ⟨⟨turn (.host (readAt Params.reference 0x3C)) busyNop, rfl, rfl⟩,
    ⟨turn (.host (readAt Params.reference 0x3C)) State.reset, rfl, rfl, rfl⟩,
    ⟨turn (.host (readAt Params.reference 0x3C)) { State.reset with ofifo := [5#8] }, rfl, rfl, rfl⟩⟩

theorem witness_ReadsWhileBusyChangeNothing :
    ∀ off ∈ [0x0C, 0x10, 0x3C, 0x44, 0xFC], off % 4 = 0 ∧ off < 256 ∧
      ∃ s : State, s.turns = .host (readAt s.params off) :: [] ∧ s.busy = true :=
  fun off h => ⟨by revert off; decide, by revert off; decide,
    turn (.host (readAt Params.reference off)) busyNop, rfl, rfl⟩

theorem witness_ReservedReadsZeroAndOtherWritesAreIgnored :
    (∀ off ∈ [0x0C, 0x44, 0xFC], off % 4 = 0 ∧ off < 256 ∧
      ∃ s : State, s.turns = .host (readAt s.params off) :: [] ∧ s.busy = false) ∧
    (∀ off ∈ [0x00, 0x10, 0x18, 0x40, 0x44, 0xFC], off % 4 = 0 ∧ off < 256 ∧ off ≠ 0x0C ∧ off ≠ 0x14 ∧
      ∃ s : State, s.turns = .host (writeAt s.params off 7#32) :: []) :=
  ⟨fun off h => ⟨by revert off; decide, by revert off; decide,
      turn (.host (readAt Params.reference off)) State.reset, rfl, rfl⟩,
    fun off h => ⟨by revert off; decide, by revert off; decide, by revert off; decide, by revert off; decide,
      turn (.host (writeAt Params.reference off 7#32)) State.reset, rfl⟩⟩

theorem witness_ErrFlagsAreWriteOneToClear :
    ∃ s : State, s.turns = .host (writeAt s.params 0x14 0x10#32) :: [] ∧ s.busy = false :=
  ⟨turn (.host (writeAt Params.reference 0x14 0x10#32)) State.reset, rfl, rfl⟩

theorem witness_WritesWhileBusyAreDiscarded :
    ∀ off ∈ [0x0C, 0x14, 0x10, 0x18, 0xFC], off % 4 = 0 ∧ off < 256 ∧
      ∃ s : State, s.turns = .host (writeAt s.params off 7#32) :: [] ∧ s.busy = true :=
  fun off h => ⟨by revert off; decide, by revert off; decide,
    turn (.host (writeAt Params.reference off 7#32)) busyNop, rfl, rfl⟩

theorem witness_UndefinedAccessesFaultByName :
    (∃ s : State, s.turns = .host ⟨.read, 0x3E, 4, true⟩ :: [] ∧ ¬ ∃ off, off % 4 = 0 ∧ off < 256 ∧
      (0x3E : Nat) = s.params.hencBase + off ∧ 4 = 4 ∧ true = true) ∧
    (∃ s : State, s.turns = .host (readAt s.params 0xFC) :: []) :=
  ⟨⟨turn (.host ⟨.read, 0x3E, 4, true⟩) State.reset, rfl, by
      rintro ⟨off, h4, _, ho, _⟩
      have hb : (turn (.host ⟨.read, 0x3E, 4, true⟩) State.reset).params.hencBase = 0 := rfl
      omega⟩,
    turn (.host (readAt Params.reference 0xFC)) State.reset, rfl⟩

theorem witness_OnlyThreeAccessesChangeTheBlock :
    ∃ s t : State, s.turns = .host (readAt s.params 0x24) :: [] ∧ step s = .next t ∧
      (∀ v, readAt s.params 0x24 ≠ writeAt s.params 0x0C v) ∧ (∀ v, readAt s.params 0x24 ≠ writeAt s.params 0x14 v) ∧
      readAt s.params 0x24 ≠ readAt s.params 0x3C :=
  ⟨turn (.host (readAt Params.reference 0x24)) State.reset, _, rfl, eq_next_after (by decide +kernel),
    fun v h => by simp [readAt, writeAt] at h, fun v h => by simp [readAt, writeAt] at h, by decide⟩

theorem witness_SecondMasterIsRefused :
    ∃ s : State, s.turns = .otherMaster (readAt s.params 0) :: [] :=
  ⟨turn (.otherMaster (readAt Params.reference 0)) State.reset, rfl⟩

theorem witness_ResetDiscardsEverything :
    ∃ s : State, s.turns = .reset :: [] ∧ s.busy = true := ⟨turn .reset busyNop, rfl, rfl⟩

theorem witness_OnlyReadbackWritesTheResults :
    ∃ s t : State, step s = .next t ∧ (t.res0, t.res1, t.res2) ≠ (s.res0, s.res1, s.res2) :=
  ⟨p1Hist.withFetchWord 32 0x11000062, _, eq_next_after (by decide +kernel), by decide +kernel⟩

theorem witness_OnlyPushCounts :
    ∃ s t : State, step s = .next t ∧ (t.freq, t.total, t.nsym) ≠ (s.freq, s.total, s.nsym) :=
  ⟨State.reset.withFetchWord 32 0x10000061, _, eq_next_after (by decide +kernel), by decide +kernel⟩

theorem witness_StickyBitsAreClearedByTheHostOnly :
    ∃ s t : State, step s = .next t ∧ s.errFlags.getLsbD (5 - 1) = true ∧ t.errFlags.getLsbD (5 - 1) = false :=
  ⟨turn (.host (writeAt Params.reference 0x14 0x20#32)) { State.reset with errFlags := 0b0010000#7 }, _,
    eq_next_after (by decide +kernel), by decide, by decide +kernel⟩

theorem witness_ParametersNeverChange : ∃ s t : State, step s = .next t :=
  ⟨State.reset, _, eq_next_after (by decide)⟩

theorem witness_EveryStepKeepsTheInvariant :
    ∃ s t : State, Inv s ∧ step s = .next t := ⟨abDone, _, inv_abDone, eq_next_after (by decide +kernel)⟩

theorem witness_InvariantGivesTheTreeItems : Inv abCodes ∧ abCodes.phase ≠ .hist := ⟨inv_abCodes, by decide +kernel⟩

/-- 30_encoding.md R98: the second PUSH of a string polls on its own count. -/
theorem test_pushs_polls_per_byte : pushsTurns Params.reference [(0x61#8, 0), (0x62#8, 1)] =
    [wr Params.reference .cmd 0x10000061#32, .engine, rd Params.reference .status,
     wr Params.reference .cmd 0x10000062#32, rd Params.reference .status, .engine, rd Params.reference .status] := by
  decide

theorem witness_CommandStatementEndsIdle :
    ∃ s t : State, s.busy = false ∧ s.turns = commandTurns s.params 2 .build ++ [] ∧
      exec .build { s with turns := [] } = .next t :=
  ⟨{ abHist with turns := commandTurns Params.reference 2 .build }, _, by decide +kernel, by decide +kernel,
    eq_next_after (by decide +kernel)⟩

theorem witness_DrainReadsTheFifoInOrder :
    ∃ s : State, s.busy = false ∧ s.turns = drainTurns s.params s.ofifo.length ++ [] ∧ s.ofifo ≠ [] :=
  ⟨{ State.reset with ofifo := [1#8, 2#8], turns := drainTurns Params.reference 2 }, rfl, rfl, by decide⟩

end Sys2Proof.Tests
end

section
/-! PROOFS. The reset state and what the host reads from it (10_state.md R50). -/

namespace Sys2Proof.Machine

/-- CONFIG as a constant high half and `OFIFO_DEPTH` in the low half (10_state.md R24), for every parameter. -/
theorem configWord_eq (p : Params) : configWord p = 0x20400000#32 ||| p.ofifoDepth.setWidth 32 := by
  have hhigh : BitVec.ofNat 8 countWidth ++ BitVec.ofNat 8 codeWidth = 0x2040#16 := by decide
  rw [configWord, hhigh, BitVec.append_def, BitVec.setWidth'_eq]
  rfl

/-- An empty arena reads as TREEINFO 0: `nnodes` and ROOT_VALID are 0, and `root` is masked (10_state.md R30). -/
theorem treeInfoWord_of_node_nil {s : State} (h : s.node = []) : treeInfoWord s = 0#32 := by
  have hn : s.nnodes = 0 := by simp [State.nnodes, h]
  simp [treeInfoWord, rootValid, hn]

/-- No sticky bit set reads as ERR_FLAGS 0 (10_state.md R27). -/
theorem errFlagsWord_of_zero {s : State} (h : s.errFlags = 0#7) : errFlagsWord s = 0#32 := by
  simp [errFlagsWord, h]

/-- STATUS in phase HIST, idle, after a success, with the output side empty (10_state.md R26); OUT_FULL is 0 because a
FIFO has room for at least one byte. -/
theorem statusWord_of_fresh {s : State} (hphase : s.phase = .hist) (hidle : s.busy = false) (herr : s.lastErr = .ok)
    (hacc : s.accN = 0#3) (hfifo : s.ofifo = []) (hdepth : s.params.ofifoDepth ≠ 0#16) : statusWord s = 0#32 := by
  have hfull : outFull s = false := by
    simpa [outFull, hfifo, BitVec.toNat_eq, eq_comm] using hdepth
  have hempty : outNonempty s = false := by simp [outNonempty, hfifo]
  simp [statusWord, hfull, hempty, hphase, hidle, herr, hacc, hfifo, phaseNum, codeNum]

theorem statusWord_reset : statusWord State.reset = 0#32 :=
  statusWord_of_fresh rfl rfl rfl rfl rfl (by decide)

/-- What each register reads right after reset: the identification registers keep their constants, every other register
reads 0 (10_state.md R50). -/
theorem regWord_reset (r : Reg) :
    regWord State.reset r =
      (if r = .id then 0x48454E43#32 else if r = .version then 0x00010000#32
       else if r = .config then 0x20400000#32 ||| State.reset.params.ofifoDepth.setWidth 32 else 0#32) := by
  cases r with
  | config => exact configWord_eq State.reset.params
  | status => exact statusWord_reset
  | errFlags => exact errFlagsWord_of_zero rfl
  | treeInfo => exact treeInfoWord_of_node_nil rfl
  | _ => rfl

/-- The internal arrays after reset hold one value everywhere, as `constTable` does. -/
theorem tables_reset : State.reset.freq = constTable 0#32 ∧ State.reset.len = constTable 0#8 ∧
    State.reset.code = constTable 0#64 := ⟨rfl, rfl, rfl⟩

end Sys2Proof.Machine

namespace Sys2Proof.Proofs

open Sys2Proof.Machine

/-- Settles O1: the scalar fields are the literals of `State.reset`, the arrays are constant, and `regWord_reset` gives
the registers. -/
theorem resetHoldsTheStatedValues : Obligations.ResetHoldsTheStatedValues := by
  obtain ⟨hfreq, hlen, hcode⟩ := tables_reset
  unfold Obligations.ResetHoldsTheStatedValues
  rw [hfreq, hlen, hcode]
  exact ⟨rfl, rfl, rfl, rfl, rfl, rfl, rfl, rfl, rfl, readSym_constTable 0#32, rfl, rfl, rfl,
    readSym_constTable 0#8, readSym_constTable 0#64, rfl, rfl, rfl, rfl, rfl, regWord_reset⟩

end Sys2Proof.Proofs
end

section
/-! PROOFS. Which host accesses go on and which are refused (20_memory.md R62). -/

namespace Sys2Proof.Machine

/-- An access has a defined offset exactly when R62 defines it, in the order in which R62 lists its parts. -/
theorem exists_definedOffset_iff {p : Params} {a : Access} :
    (∃ off, definedOffset p a = some off) ↔
      ∃ off, off % 4 = 0 ∧ off < 256 ∧ a.addr = p.hencBase + off ∧ a.size = 4 ∧ a.full = true := by
  simp only [definedOffset_eq_some]
  constructor
  · rintro ⟨off, hsize, hfull, haddr, hlt, hmod⟩
    exact ⟨off, hmod, hlt, haddr, hsize, hfull⟩
  · rintro ⟨off, hmod, hlt, haddr, hsize, hfull⟩
    exact ⟨off, hsize, hfull, haddr, hlt, hmod⟩

/-- A defined access goes on, whatever it reads or writes. -/
theorem hostAccess_goes_on_of_defined {a : Access} {s : State} {off : Nat}
    (h : definedOffset s.params a = some off) : ∃ t, hostAccess a s = .next t := by
  simp only [hostAccess, h]
  cases a.dir with
  | read => exact ⟨_, rfl⟩
  | write v => exact ⟨_, rfl⟩

theorem hostAccess_of_undefined {a : Access} {s : State} (h : definedOffset s.params a = none) :
    hostAccess a s = .fault (.hostBadAccess a) := by
  simp only [hostAccess, h]

end Sys2Proof.Machine

namespace Sys2Proof.Proofs

open Sys2Proof.Machine

/-- Settles O48: the host's turn is `hostAccess`, which goes on or faults as the access has a defined offset or none. -/
theorem undefinedAccessesFaultByName : Obligations.UndefinedAccessesFaultByName := by
  intro s a rest hturn
  rw [step_of_host hturn, ← exists_definedOffset_iff]
  constructor
  · rintro ⟨off, hoff⟩
    exact hostAccess_goes_on_of_defined (s := dropTurn s) hoff
  · intro hnone
    have hundef : definedOffset (dropTurn s).params a = none :=
      Option.eq_none_iff_forall_ne_some.2 fun off hoff => hnone ⟨off, hoff⟩
    exact hostAccess_of_undefined hundef

end Sys2Proof.Proofs
end

section
/-! PROOFS. The phase check of the execution frame: which commands may run in which phase (40_control.md R113). -/

namespace Sys2Proof.Machine

/-- The check the model makes is the table of R113. -/
theorem legal_iff_mem_legalPhases (i : Instr) (p : Phase) : legal i p = true ↔ p ∈ legalPhases i := by
  cases i <;> cases p <;> simp [legal, legalPhases]

/-- A command that passes the phase check ends with another result: its body never raises E_PHASE. -/
theorem lastErr_ne_phase_of_legal {i : Instr} {s t : State} (hl : legal i s.phase = true) (h : exec i s = .next t) :
    t.lastErr ≠ .phase := by
  rcases exec_cases h with ⟨hillegal, -⟩ | ⟨-, e, he, rfl⟩ | ⟨-, s', -, rfl⟩
  · simp [hl] at hillegal
  · rcases bodyOf_error he with rfl | rfl | rfl | rfl <;> simp
  · simp

end Sys2Proof.Machine

namespace Sys2Proof.Proofs

open Sys2Proof.Machine

/-- Settles O11: the phase check is R113's table, a failed check is the frame's first exit, and no body raises
E_PHASE. -/
theorem phaseErrorExactlyWhereTheTableSaysSo : Obligations.PhaseErrorExactlyWhereTheTableSaysSo := by
  intro i s
  simp only [← legal_iff_mem_legalPhases, Bool.not_eq_true]
  constructor
  · exact exec_of_illegal
  · intro hl
    obtain ⟨t, ht⟩ := exec_goes_on i s
    exact ⟨t, ht, lastErr_ne_phase_of_legal hl ht⟩

end Sys2Proof.Proofs
end

section
/-! PROOFS. What a host access can change at most (20_memory.md R63 to R66), and the CMD write (40_control.md R110). -/

namespace Sys2Proof.Machine

/-- A read takes a byte out of the FIFO, uses up a draw, or does neither, and shows the host a value. -/
theorem readReg_frame (r : Reg) (s : State) :
    readReg r s = { s with ofifo := (readReg r s).ofifo, payload := (readReg r s).payload,
                           rdata := (readReg r s).rdata, draws := (readReg r s).draws } := by
  cases hb : s.busy with
  | true =>
    obtain ⟨n, hn⟩ := readBusy_state r s
    simp [readReg_of_busy hb, hn]
  | false =>
    by_cases hr : r = .outData
    · subst hr
      cases hf : s.ofifo with
      | nil => simp [readReg_of_idle hb, readIdle, popOutData_nil hf]
      | cons b bs => simp [readReg_of_idle hb, readIdle, popOutData_cons hf]
    · simp [readReg_of_idle_ne hb hr]

/-- A write issues a command, or changes sticky bits, or is ignored. -/
theorem writeReg_frame (r : Reg) (v : Word) (s : State) :
    writeReg r v s = { s with cmdq := (writeReg r v s).cmdq, errFlags := (writeReg r v s).errFlags } := by
  cases hb : s.busy with
  | true =>
    rw [writeReg_of_busy hb]
    split <;> rfl
  | false => cases r <;> simp [writeReg, hb, issue]

/-- A host access changes nothing but what its read or write can change. -/
theorem hostAccess_frame {a : Access} {s t : State} (h : hostAccess a s = .next t) :
    t = { s with cmdq := t.cmdq, errFlags := t.errFlags, ofifo := t.ofifo, payload := t.payload, rdata := t.rdata,
                 draws := t.draws } := by
  obtain ⟨off, -, -, ⟨-, rfl⟩ | ⟨v, -, rfl⟩⟩ := hostAccess_cases h
  · rw [readReg_frame]
  · rw [writeReg_frame]

theorem hostAccess_phase {a : Access} {s t : State} (h : hostAccess a s = .next t) : t.phase = s.phase := by
  rw [hostAccess_frame h]

/-- The host's turn with a write at an aligned offset of the window is the write of the register there. -/
theorem step_of_writeAt {s : State} {off : Nat} {v : Word} {rest : List Turn}
    (h : s.turns = .host (writeAt s.params off v) :: rest) (hoff : off < 256) (h4 : off % 4 = 0) :
    step s = .next (writeReg (regAt off) v (dropTurn s)) :=
  (step_of_host h).trans (hostAccess_writeAt (s := dropTurn s) hoff h4)

theorem writeReg_cmd_of_idle {s : State} {w : Word} (h : s.busy = false) : writeReg .cmd w s = issue w s := by
  simp [writeReg, h]

/-- No host write takes back a pending word (60_exceptions.md R204). -/
theorem writeReg_cmdq_of_busy {r : Reg} {v : Word} {s : State} (h : s.busy = true) :
    (writeReg r v s).cmdq = s.cmdq := by
  rw [writeReg_of_busy h]
  split <;> rfl

end Sys2Proof.Machine

namespace Sys2Proof.Proofs

open Sys2Proof.Machine

/-- Settles O6: offset 0x0C is CMD, whose write is an issue while idle and keeps the pending word while busy. -/
theorem cmdWriteIssuesWhileIdleOnly : Obligations.CmdWriteIssuesWhileIdleOnly := by
  intro s w rest hturn
  have hstep : step s = .next (writeReg .cmd w (dropTurn s)) := step_of_writeAt hturn (by decide) (by decide)
  constructor
  · intro hidle
    rw [hstep, writeReg_cmd_of_idle (by simpa using hidle)]
    simp [issue, dropTurn, hturn]
  · intro hbusy
    exact ⟨_, hstep, writeReg_cmdq_of_busy (s := dropTurn s) hbusy⟩

end Sys2Proof.Proofs
end

section
/-! PROOFS. Which commands move the block to another phase (40_control.md R114). -/

namespace Sys2Proof.Machine

theorem bodyFlush_phase {s s' : State} (h : bodyFlush s = .ok s') : s'.phase = .done := by
  unfold bodyFlush at h
  repeat' split at h
  · cases h
  · cases h; rfl
  · cases h; rfl

theorem nodeResults_phase (n : Node) (s : State) : (nodeResults n s).phase = s.phase := by
  unfold nodeResults
  split <;> rfl

/-- The bodies that write `phase`, and what they write. -/
theorem bodyOf_changes_phase {i : Instr} {s s' : State} (h : bodyOf i s = .ok s') (hne : s'.phase ≠ s.phase) :
    (i = .build ∧ s'.phase = .tree) ∨ (i = .canon ∧ s'.phase = .codes) ∨ (i = .flush ∧ s'.phase = .done) ∨
      (i = .clear ∧ s'.phase = .hist) := by
  rcases bodyOf_ok_cases h with ⟨-, rfl⟩ | ⟨hi, rfl⟩ | ⟨_, -, -, rfl⟩ | ⟨_, -, rfl⟩ | ⟨hi, rfl⟩ | ⟨_, n, -, -, rfl⟩ |
    ⟨hi, -, rfl⟩ | ⟨_, -, hb⟩ | ⟨_, -, -, -, -, rfl⟩ | ⟨hi, hb⟩
  · exact absurd rfl hne
  · exact .inr (.inr (.inr ⟨hi, rfl⟩))
  · exact absurd rfl hne
  · exact absurd rfl hne
  · exact .inl ⟨hi, rfl⟩
  · exact absurd (nodeResults_phase n s) hne
  · exact .inr (.inl ⟨hi, rfl⟩)
  · cases hb
    exact absurd rfl hne
  · exact absurd rfl hne
  · exact .inr (.inr (.inl ⟨hi, bodyFlush_phase hb⟩))

/-- A command that changes `phase` succeeded and is one of four, and the first three left the one phase they may run
in. -/
theorem exec_changes_phase {i : Instr} {s t : State} (h : exec i s = .next t) (hne : t.phase ≠ s.phase) :
    t.lastErr = .ok ∧
      ((i = .build ∧ s.phase = .hist ∧ t.phase = .tree) ∨ (i = .canon ∧ s.phase = .tree ∧ t.phase = .codes) ∨
       (i = .flush ∧ s.phase = .codes ∧ t.phase = .done) ∨ (i = .clear ∧ t.phase = .hist)) := by
  rcases exec_cases h with ⟨-, rfl⟩ | ⟨-, e, -, rfl⟩ | ⟨hl, s', hb, rfl⟩
  · exact absurd rfl hne
  · exact absurd rfl hne
  · have hmem := (legal_iff_mem_legalPhases i s.phase).1 hl
    refine ⟨rfl, ?_⟩
    rcases bodyOf_changes_phase hb hne with ⟨rfl, hp⟩ | ⟨rfl, hp⟩ | ⟨rfl, hp⟩ | ⟨rfl, hp⟩
    · exact .inl ⟨rfl, List.mem_singleton.1 hmem, hp⟩
    · exact .inr (.inl ⟨rfl, List.mem_singleton.1 hmem, hp⟩)
    · exact .inr (.inr (.inl ⟨rfl, List.mem_singleton.1 hmem, hp⟩))
    · exact .inr (.inr (.inr ⟨rfl, hp⟩))

end Sys2Proof.Machine

namespace Sys2Proof.Proofs

open Sys2Proof.Machine

/-- Settles O13: a host access, an idle Engine's turn and an illegal word keep `phase`; a reset is the first
alternative, and a decoded command that changes it is one of the four (`exec_changes_phase`). -/
theorem onlyTheseEventsChangePhase : Obligations.OnlyTheseEventsChangePhase := by
  intro s t hstep hne
  rcases step_cases hstep with ⟨a, rest, -, hacc⟩ | ⟨rest, hturn, rfl⟩ | ⟨-, -, rfl⟩ | ⟨-, w, -, -, rfl⟩ |
    ⟨heng, w, i, u, hw, hdec, hexec, rfl⟩
  · exact absurd (hostAccess_phase hacc) hne
  · exact .inl ⟨by rw [hturn]; rfl, rfl⟩
  · exact absurd rfl hne
  · exact absurd rfl hne
  · obtain ⟨hok, hevent⟩ := exec_changes_phase hexec hne
    exact .inr ⟨heng, hok, w, hw, by simpa [hdec] using hevent⟩

end Sys2Proof.Proofs
end

section
/-! PROOFS. What a run of PUSHes does to the histogram (41_histogram.md R130, R132). -/

namespace Sys2Proof.Machine

theorem writeSym_comm {α : Type} (t : Table α) {x y : Byte} (u v : α) (h : x ≠ y) :
    writeSym (writeSym t x u) y v = writeSym (writeSym t y v) x u :=
  Vector.set_comm u v fun he => h (BitVec.eq_of_toNat_eq he)

/-- The state a PUSH that counts ends in (41_histogram.md R130). -/
def pushed (s : State) (sym : Byte) : State := succeed (countSymbol sym s)

@[simp] theorem pushed_phase (s : State) (sym : Byte) : (pushed s sym).phase = s.phase := rfl

@[simp] theorem pushed_total (s : State) (sym : Byte) : (pushed s sym).total = s.total + 1#32 := rfl

@[simp] theorem pushed_freq (s : State) (sym : Byte) :
    (pushed s sym).freq = writeSym s.freq sym (readSym s.freq sym + 1#32) := rfl

@[simp] theorem pushed_nsym (s : State) (sym : Byte) :
    (pushed s sym).nsym = if readSym s.freq sym = 0#32 then s.nsym + 1#9 else s.nsym := rfl

theorem exec_push_of_fits {s : State} (sym : Byte) (hphase : s.phase = .hist) (hfits : s.total ≠ 0xFFFFFFFF#32) :
    exec (.push sym) s = .next (pushed s sym) :=
  exec_of_ok (by rw [hphase]; rfl) (if_neg hfits)

/-- Two bytes counted in either order leave the same state: they are one byte, or their counters are apart. -/
theorem pushed_comm (s : State) (x y : Byte) : pushed (pushed s x) y = pushed (pushed s y) x := by
  by_cases hxy : x = y
  · rw [hxy]
  · have hx : readSym (pushed s y).freq x = readSym s.freq x := readSym_writeSym_of_ne s.freq _ hxy
    have hy : readSym (pushed s x).freq y = readSym s.freq y := readSym_writeSym_of_ne s.freq _ (Ne.symm hxy)
    have hfreq : (pushed (pushed s x) y).freq = (pushed (pushed s y) x).freq := by
      rw [pushed_freq (pushed s x), pushed_freq (pushed s y), hx, hy]
      exact writeSym_comm s.freq _ _ hxy
    have hnsym : (pushed (pushed s x) y).nsym = (pushed (pushed s y) x).nsym := by
      rw [pushed_nsym (pushed s x), pushed_nsym (pushed s y), hx, hy, pushed_nsym, pushed_nsym]
      split <;> split <;> rfl
    calc pushed (pushed s x) y
        = { pushed (pushed s y) x with
            freq := (pushed (pushed s x) y).freq, nsym := (pushed (pushed s x) y).nsym } := rfl
      _ = pushed (pushed s y) x := by rw [hfreq, hnsym]

/-- The bytes counted one after the other. -/
def pushAll (s : State) (xs : List Byte) : State := xs.foldl pushed s

@[simp] theorem pushAll_nil (s : State) : pushAll s [] = s := rfl

@[simp] theorem pushAll_cons (s : State) (x : Byte) (xs : List Byte) :
    pushAll s (x :: xs) = pushAll (pushed s x) xs := rfl

@[simp] theorem pushAll_concat (s : State) (xs : List Byte) (x : Byte) :
    pushAll s (xs ++ [x]) = pushed (pushAll s xs) x := List.foldl_concat ..

theorem pushAll_perm (s : State) {xs ys : List Byte} (h : xs.Perm ys) : pushAll s xs = pushAll s ys :=
  h.foldl_eq' (fun x _ y _ s => pushed_comm s x y) s

/-- PUSHes that fit the counter all count. -/
theorem runCommands_push {s : State} {xs : List Byte} (hphase : s.phase = .hist)
    (hfits : s.total.toNat + xs.length < 2 ^ 32) : runCommands (xs.map .push) s = .next (pushAll s xs) := by
  induction xs generalizing s with
  | nil => rfl
  | cons x xs ih =>
    rw [List.length_cons] at hfits
    have hroom : s.total ≠ 0xFFFFFFFF#32 := by bv_omega
    have hrest : (pushed s x).total.toNat + xs.length < 2 ^ 32 := by
      rw [pushed_total]
      bv_omega
    rw [List.map_cons, runCommands, exec_push_of_fits x hphase hroom]
    exact ih hphase hrest

theorem total_pushAll (s : State) (xs : List Byte) :
    (pushAll s xs).total = s.total + BitVec.ofNat 32 xs.length := by
  induction xs generalizing s with
  | nil => simp
  | cons x xs ih =>
    rw [pushAll_cons, ih, pushed_total, List.length_cons, Nat.add_comm, BitVec.ofNat_add, BitVec.add_assoc]

theorem readSym_freq_pushAll (s : State) (xs : List Byte) (sym : Byte) :
    readSym (pushAll s xs).freq sym = readSym s.freq sym + BitVec.ofNat 32 (xs.count sym) := by
  induction xs generalizing s with
  | nil => simp
  | cons x xs ih =>
    rw [pushAll_cons, ih, pushed_freq]
    by_cases hx : sym = x
    · subst hx
      rw [readSym_writeSym_same, List.count_cons_self, Nat.add_comm, BitVec.ofNat_add, BitVec.add_assoc]
    · rw [readSym_writeSym_of_ne _ _ hx, List.count_cons_of_ne (Ne.symm hx)]

/-- From cleared counts the counter of a symbol is 0 exactly while the symbol has not come: no counter wraps, as the
bytes fit `total`. -/
theorem readSym_freq_pushAll_eq_zero {s : State} {xs : List Byte} (hcleared : s.freq = constTable 0#32)
    (hfits : xs.length < 2 ^ 32) (sym : Byte) : readSym (pushAll s xs).freq sym = 0#32 ↔ sym ∉ xs := by
  have hcount : xs.count sym < 2 ^ 32 := Nat.lt_of_le_of_lt List.count_le_length hfits
  rw [readSym_freq_pushAll, hcleared, readSym_constTable, BitVec.zero_add, ← List.count_eq_zero]
  bv_omega

/-- From cleared counts `nsym` is the number of distinct bytes, by the last byte pushed: it is new, or it is not. -/
theorem nsym_pushAll {s : State} {xs : List Byte} (hcleared : s.freq = constTable 0#32) (hnsym : s.nsym = 0#9)
    (hfits : xs.length < 2 ^ 32) : (pushAll s xs).nsym = BitVec.ofNat 9 xs.toFinset.card := by
  induction xs using List.reverseRecOn with
  | nil => simpa using hnsym
  | append_singleton xs x ih =>
    have hfits' : xs.length < 2 ^ 32 := by
      rw [List.length_append] at hfits
      omega
    have hset : (xs ++ [x]).toFinset = insert x xs.toFinset := by ext; simp
    rw [pushAll_concat, pushed_nsym, ih hfits', hset]
    by_cases hx : x ∈ xs
    · rw [if_neg fun h0 => (readSym_freq_pushAll_eq_zero hcleared hfits' x).1 h0 hx,
        Finset.insert_eq_of_mem (List.mem_toFinset.2 hx)]
    · rw [if_pos ((readSym_freq_pushAll_eq_zero hcleared hfits' x).2 hx),
        Finset.card_insert_of_notMem (mt List.mem_toFinset.1 hx), BitVec.ofNat_add]

theorem card_toFinset_bytes_le (xs : List Byte) : xs.toFinset.card ≤ 256 :=
  calc xs.toFinset.card
      ≤ symbols.toFinset.card := Finset.card_le_card fun sym _ => List.mem_toFinset.2 (mem_symbols sym)
    _ ≤ symbols.length := List.toFinset_card_le symbols
    _ = 256 := length_symbols

end Sys2Proof.Machine

namespace Sys2Proof.Proofs

open Sys2Proof.Machine

/-- Settles O19: both runs end in `pushAll`, which does not depend on the order since two PUSHes commute; its counts,
`total` and `nsym` are read off the list. -/
theorem histogramDependsOnTheMultisetOnly : Obligations.HistogramDependsOnTheMultisetOnly := by
  intro s xs ys hperm hphase hfits
  have hys : runCommands (ys.map .push) s = .next (pushAll s xs) := by
    rw [pushAll_perm s hperm]
    exact runCommands_push hphase (hperm.length_eq ▸ hfits)
  refine ⟨pushAll s xs, runCommands_push hphase hfits, hys, readSym_freq_pushAll s xs, ?_, fun hcleared hnsym => ?_⟩
  · rw [total_pushAll]
    bv_omega
  · have hcard := card_toFinset_bytes_le xs
    rw [nsym_pushAll hcleared hnsym (by omega), BitVec.toNat_ofNat, Nat.mod_eq_of_lt (by omega)]

end Sys2Proof.Proofs
end

section
/-! PROOFS. CANON beyond the width of a code (43_canonical.md R163). -/

namespace Sys2Proof.Machine

theorem bodyCanon_of_codeWidth_lt {s : State} (h : codeWidth < s.maxlen.toNat) : bodyCanon s = .error .capacity :=
  if_pos h

end Sys2Proof.Machine

namespace Sys2Proof.Proofs

open Sys2Proof.Machine

/-- Settles O28: TREE passes the phase check, the body raises E_CAPACITY, and the frame's error exit writes the result
and its sticky bit only. -/
theorem canonBeyondTheCodeWidthFails : Obligations.CanonBeyondTheCodeWidthFails := by
  intro s hphase hwide
  have hlegal : legal .canon s.phase = true := by rw [hphase]; rfl
  exact exec_of_error hlegal (bodyCanon_of_codeWidth_lt hwide)

end Sys2Proof.Proofs
end

section
/-! PROOFS. Host writes while a command is pending (60_exceptions.md R204). -/

namespace Sys2Proof.Machine

/-- No register of the map but the reserved one stands at two offsets (20_memory.md R61). -/
theorem regOffset_regAt {off : Nat} (h : regAt off ≠ .reserved) : regOffset (regAt off) = off := by
  revert h
  unfold regAt
  split
  case h_18 => exact fun h => absurd rfl h
  all_goals exact fun _ => rfl

theorem regAt_eq_iff {off : Nat} {r : Reg} (hr : r ≠ .reserved) : regAt off = r ↔ off = regOffset r := by
  constructor
  · rintro rfl
    exact (regOffset_regAt hr).symm
  · rintro rfl
    exact regAt_regOffset r

end Sys2Proof.Machine

namespace Sys2Proof.Proofs

open Sys2Proof.Machine

/-- Settles O47: the host's turn is the write of the register at `off`, which is a busy violation at CMD and ERR_FLAGS,
each at its one offset, and ignored elsewhere. -/
theorem writesWhileBusyAreDiscarded : Obligations.WritesWhileBusyAreDiscarded := by
  intro s off v rest h4 hoff hturn hbusy
  have hviolates : regAt off = .cmd ∨ regAt off = .errFlags ↔ off = 0x0C ∨ off = 0x14 :=
    or_congr (regAt_eq_iff (by decide)) (regAt_eq_iff (by decide))
  have hdrop : dropTurn s = { s with turns := rest } := by simp [dropTurn, hturn]
  rw [step_of_writeAt hturn hoff h4, writeReg_of_busy (by simpa using hbusy), hdrop]
  constructor
  · intro hoffset
    rw [if_pos (hviolates.2 hoffset)]
    rfl
  · intro hnotCmd hnotErr
    rw [if_neg (mt hviolates.1 (not_or.2 ⟨hnotCmd, hnotErr⟩))]

end Sys2Proof.Proofs
end

section
/-! PROOFS. The encoder, the decoder and the well-formedness check read one table (30_encoding.md R90 to R97). -/

-- One declaration after another: this keeps the compile of the whole text within its memory.
set_option Elab.async false

namespace Sys2Proof

/-- The number of operand bits of a form (30_encoding.md R91). -/
def formWidth : Form → Nat
  | .N => 0
  | .S => 8
  | .I => 9

/-- What the rows of 30_encoding.md R93 have in common: the match is the OP field alone, and the mask lets the
operand bits of the form go. -/
theorem opcodeTable_row : ∀ r ∈ opcodeTable, formOf r.op = some r.form ∧ r.pattern = r.op.setWidth 32 <<< 24 ∧
    r.mask = BitVec.allOnes 32 <<< formWidth r.form := by decide

/-- An opcode has a form exactly when it has a row. -/
theorem exists_row_of_formOf {op : Byte} {f : Form} (h : formOf op = some f) : ∃ r ∈ opcodeTable, r.op = op := by
  revert op f
  decide +kernel

theorem find_row {r : Row} (h : r ∈ opcodeTable) : opcodeTable.find? (fun x => x.op == r.op) = some r := by
  simp only [opcodeTable, List.mem_cons, List.not_mem_nil, or_false] at h
  rcases h with rfl | rfl | rfl | rfl | rfl | rfl | rfl | rfl | rfl | rfl
  all_goals rfl

theorem and_allOnes_shiftLeft (w : Word) (k : Nat) : w &&& (BitVec.allOnes 32 <<< k) = w >>> k <<< k := by
  ext i hi
  by_cases hk : i < k
  · simp [hk]
  · have hki : k + (i - k) = i := by omega
    simp [hk, hki, show i < 32 by omega, -BitVec.reduceAllOnes]

/-- The word is its masked part with its operand bits put in. -/
theorem masked_or_operand (w : Word) (k : Nat) :
    (w &&& (BitVec.allOnes 32 <<< k)) ||| (w.extractLsb' 0 k).setWidth 32 = w := by
  ext i hi
  by_cases hk : i < k
  · simp [hk, hi]
  · simp [hk, -BitVec.reduceAllOnes]

/-- The mask of a form checks OP, RSV and the form's must-be-zero bits at once (30_encoding.md R92). -/
theorem masked_eq_iff (f : Form) (w : Word) (op : Byte) :
    w &&& (BitVec.allOnes 32 <<< formWidth f) = op.setWidth 32 <<< 24 ↔
      opField w = op ∧ rsvZero w = true ∧ operandFits f w = true := by
  have hw := w.isLt
  have ho := op.isLt
  rw [and_allOnes_shiftLeft]
  simp only [opField, rsvZero, rsvField, decide_eq_true_eq, BitVec.toNat_eq, BitVec.toNat_shiftLeft,
    BitVec.toNat_ushiftRight, BitVec.extractLsb'_toNat, BitVec.toNat_setWidth, BitVec.toNat_ofNat, Nat.shiftLeft_eq,
    Nat.shiftRight_eq_div_pow]
  cases f
  all_goals
    simp only [formWidth, operandFits, imm16Field, decide_eq_true_eq, BitVec.toNat_eq, BitVec.extractLsb'_toNat,
      BitVec.toNat_ofNat, Nat.shiftRight_eq_div_pow]
    omega

/-- A row selects a word exactly when OP is the row's and the other two checks of R92 pass. -/
theorem selected_iff {r : Row} (hr : r ∈ opcodeTable) (w : Word) :
    w &&& r.mask = r.pattern ↔ opField w = r.op ∧ rsvZero w = true ∧ operandFits r.form w = true := by
  obtain ⟨-, hpattern, hmask⟩ := opcodeTable_row r hr
  rw [hpattern, hmask, masked_eq_iff]

theorem wellFormed_iff_selected (w : Word) :
    wellFormed w = true ↔ ∃ r ∈ opcodeTable, w &&& r.mask = r.pattern := by
  constructor
  · intro hwf
    cases hf : formOf (opField w) with
    | none => simp [wellFormed, hf] at hwf
    | some f =>
      obtain ⟨r, hr, hop⟩ := exists_row_of_formOf hf
      obtain ⟨hform, -, -⟩ := opcodeTable_row r hr
      obtain rfl : r.form = f := by simpa [hop, hf] using hform.symm
      exact ⟨r, hr, (selected_iff hr w).2 ⟨hop.symm, by simpa [wellFormed, hf] using hwf⟩⟩
  · rintro ⟨r, hr, hsel⟩
    obtain ⟨hop, hrsv, hfits⟩ := (selected_iff hr w).1 hsel
    obtain ⟨hform, -, -⟩ := opcodeTable_row r hr
    simp [wellFormed, hop, hform, hrsv, hfits]

/-- The decoder answers a command exactly when a row selects the word, and then the command of that row. -/
theorem decode_eq_command_iff (w : Word) (i : Instr) :
    decode w = .command i ↔ ∃ r ∈ opcodeTable, w &&& r.mask = r.pattern ∧ r.command w = i := by
  constructor
  · intro h
    unfold decode at h
    split at h
    · cases h
    · next r hfind =>
      split at h
      · next hsel => exact ⟨r, List.mem_of_find?_eq_some hfind, hsel, by simpa using h⟩
      · cases h
  · rintro ⟨r, hr, hsel, rfl⟩
    have hop : opcodeOf w = r.op := ((selected_iff hr w).1 hsel).1
    simp [decode, hop, find_row hr, hsel]

/-- The command of a selecting row has the word for its encoding: the operand bits are the ones the mask lets go. -/
theorem encode_command_of_selected {r : Row} (hr : r ∈ opcodeTable) {w : Word} (hsel : w &&& r.mask = r.pattern) :
    encode (r.command w) = w := by
  obtain ⟨-, -, hmask⟩ := opcodeTable_row r hr
  have hword := masked_or_operand w (formWidth r.form)
  rw [← hmask, hsel] at hword
  simp only [opcodeTable, List.mem_cons, List.not_mem_nil, or_false] at hr
  rcases hr with rfl | rfl | rfl | rfl | rfl | rfl | rfl | rfl | rfl | rfl
  all_goals simpa [encode, formWidth, symOperand, idxOperand] using hword

theorem encode_of_decode {w : Word} {i : Instr} (h : decode w = .command i) : encode i = w := by
  obtain ⟨r, hr, hsel, rfl⟩ := (decode_eq_command_iff w i).1 h
  exact encode_command_of_selected hr hsel

/-- A match that leaves the low `k` bits clear, with an operand put there: the mask finds the match again. -/
theorem masked_of_operand {p : Word} {k : Nat} (hp : p &&& (BitVec.allOnes 32 <<< k) = p) (v : BitVec k) :
    (p ||| v.setWidth 32) &&& (BitVec.allOnes 32 <<< k) = p := by
  have hv : v.setWidth 32 &&& (BitVec.allOnes 32 <<< k) = 0#32 := by
    ext i hi
    by_cases hk : i < k
    · simp [hk]
    · simp [BitVec.getLsbD_of_ge v i (by omega)]
  calc (p ||| v.setWidth 32) &&& (BitVec.allOnes 32 <<< k)
      = (p &&& (BitVec.allOnes 32 <<< k)) ||| (v.setWidth 32 &&& (BitVec.allOnes 32 <<< k)) := by
        ext i
        simp only [BitVec.getElem_and, BitVec.getElem_or, Bool.and_or_distrib_right]
    _ = p := by rw [hp, hv, BitVec.or_zero]

/-- The operand is read back from under such a match. -/
theorem operand_of_masked {p : Word} {k : Nat} (hk : k ≤ 32) (hp : p &&& (BitVec.allOnes 32 <<< k) = p)
    (v : BitVec k) : (p ||| v.setWidth 32).extractLsb' 0 k = v := by
  ext i hi
  have hlow : p.getLsbD i = false := by
    rw [← hp]
    simp [hi]
  rw [BitVec.getElem_extractLsb', Nat.zero_add, BitVec.getLsbD_or, hlow]
  simp [show i < 32 by omega, BitVec.getLsbD_eq_getElem hi]

theorem decode_encode (i : Instr) : decode (encode i) = .command i := by
  rw [decode_eq_command_iff]
  cases i with
  | nop => exact ⟨opcodeTable[0], by simp [opcodeTable], rfl, rfl⟩
  | clear => exact ⟨opcodeTable[1], by simp [opcodeTable], rfl, rfl⟩
  | push sym =>
    exact ⟨opcodeTable[2], by simp [opcodeTable], masked_of_operand (k := 8) rfl sym,
      congrArg Instr.push (operand_of_masked (by decide) rfl sym)⟩
  | rdfreq sym =>
    exact ⟨opcodeTable[3], by simp [opcodeTable], masked_of_operand (k := 8) rfl sym,
      congrArg Instr.rdfreq (operand_of_masked (by decide) rfl sym)⟩
  | build => exact ⟨opcodeTable[4], by simp [opcodeTable], rfl, rfl⟩
  | rdnode idx =>
    exact ⟨opcodeTable[5], by simp [opcodeTable], masked_of_operand (k := 9) rfl idx,
      congrArg Instr.rdnode (operand_of_masked (by decide) rfl idx)⟩
  | canon => exact ⟨opcodeTable[6], by simp [opcodeTable], rfl, rfl⟩
  | lookup sym =>
    exact ⟨opcodeTable[7], by simp [opcodeTable], masked_of_operand (k := 8) rfl sym,
      congrArg Instr.lookup (operand_of_masked (by decide) rfl sym)⟩
  | enc sym =>
    exact ⟨opcodeTable[8], by simp [opcodeTable], masked_of_operand (k := 8) rfl sym,
      congrArg Instr.enc (operand_of_masked (by decide) rfl sym)⟩
  | flush => exact ⟨opcodeTable[9], by simp [opcodeTable], rfl, rfl⟩

theorem wellFormed_iff_decodes (w : Word) : wellFormed w = true ↔ ∃ i, decode w = .command i := by
  simp only [wellFormed_iff_selected, decode_eq_command_iff]
  constructor
  · rintro ⟨r, hr, hsel⟩
    exact ⟨r.command w, r, hr, hsel, rfl⟩
  · rintro ⟨-, r, hr, hsel, -⟩
    exact ⟨r, hr, hsel⟩

end Sys2Proof

namespace Sys2Proof.Proofs

open Sys2Proof.Machine

/-- Settles O3: a command's word is its row's match with the operand in the bits the mask lets go, and a word that
decodes is well-formed. -/
theorem decodeOfEncodeIsTheCommand : Obligations.DecodeOfEncodeIsTheCommand :=
  fun i => ⟨(wellFormed_iff_decodes (encode i)).2 ⟨i, decode_encode i⟩, decode_encode i⟩

/-- Settles O4: a selected word is the match and the operand bits, and these are the encoding. -/
theorem acceptedWordsAreEncodings : Obligations.AcceptedWordsAreEncodings :=
  fun _ _ h => encode_of_decode h

/-- Settles O5: a row's mask and match make the three checks of R92 in one comparison (`masked_eq_iff`). -/
theorem wellFormedWordsAreExactlyTheSelected : Obligations.WellFormedWordsAreExactlyTheSelected :=
  fun w => ⟨wellFormed_iff_selected w, wellFormed_iff_decodes w⟩

/-- Settles O2, word by word. -/
theorem writtenWordsDecode : Obligations.WrittenWordsDecode := by
  unfold Obligations.WrittenWordsDecode
  decide

end Sys2Proof.Proofs
end

section
/-! PROOFS. The invariant of 10_state.md R47: it holds at reset, and every step keeps it. -/

-- One declaration after another: this keeps the compile of the whole text within its memory.
set_option Elab.async false

namespace Sys2Proof.Machine

/-! ### Sums and counts over an internal array with one element changed -/

/-- The symbols are one of them and the others. -/
theorem symbols_perm_cons (x : Byte) : symbols.Perm (x :: symbols.erase x) := List.perm_cons_erase (mem_symbols x)

theorem ne_of_mem_symbols_erase {x y : Byte} (h : y ∈ symbols.erase x) : y ≠ x :=
  (symbols_nodup.mem_erase_iff.1 h).1

theorem freqSum_writeSym (freq : Table Word) (x : Byte) (v : Word) :
    freqSum (writeSym freq x v) + (readSym freq x).toNat = freqSum freq + v.toNat := by
  have hothers : (symbols.erase x).map (fun y => (readSym (writeSym freq x v) y).toNat) =
      (symbols.erase x).map fun y => (readSym freq y).toNat :=
    List.map_congr_left fun y hy => by rw [readSym_writeSym_of_ne freq v (ne_of_mem_symbols_erase hy)]
  have hnew := ((symbols_perm_cons x).map fun y => (readSym (writeSym freq x v) y).toNat).sum_eq
  have hold := ((symbols_perm_cons x).map fun y => (readSym freq y).toNat).sum_eq
  simp only [List.map_cons, List.sum_cons, readSym_writeSym_same, hothers] at hnew hold
  simp only [freqSum]
  omega

theorem readSym_le_freqSum (freq : Table Word) (x : Byte) : (readSym freq x).toNat ≤ freqSum freq :=
  List.single_le_sum (fun _ _ => Nat.zero_le _) _ (List.mem_map_of_mem (mem_symbols x))

theorem length_alphabet_writeSym (freq : Table Word) (x : Byte) {v : Word} (hv : v ≠ 0#32) :
    (alphabet (writeSym freq x v)).length =
      if readSym freq x = 0#32 then (alphabet freq).length + 1 else (alphabet freq).length := by
  have hothers : (symbols.erase x).countP (fun y => readSym (writeSym freq x v) y != 0#32) =
      (symbols.erase x).countP fun y => readSym freq y != 0#32 :=
    List.countP_congr fun y hy => by rw [readSym_writeSym_of_ne freq v (ne_of_mem_symbols_erase hy)]
  simp only [alphabet, ← List.countP_eq_length_filter, (symbols_perm_cons x).countP_eq, List.countP_cons,
    readSym_writeSym_same, hothers]
  split <;> simp_all

@[simp] theorem freqSum_constTable_zero : freqSum (constTable 0#32) = 0 := by
  refine List.sum_eq_zero fun n hn => ?_
  obtain ⟨sym, -, rfl⟩ := List.mem_map.1 hn
  rw [readSym_constTable, BitVec.toNat_zero]

@[simp] theorem alphabet_constTable_zero : alphabet (constTable 0#32) = [] := by simp [alphabet]

/-! ### `maxlen` is the largest length (42_tree_builder.md R148) -/

/-- The loop of `maxLength` from a start value. -/
def runningMax (l : List (Byte × Byte)) (m : Byte) : Byte := l.foldl (fun m p => if m < p.2 then p.2 else m) m

theorem runningMax_cons (q : Byte × Byte) (l : List (Byte × Byte)) (m : Byte) :
    runningMax (q :: l) m = runningMax l (if m < q.2 then q.2 else m) := rfl

/-- The running maximum bounds the start value and every element, and is one of them. -/
theorem runningMax_bounds (l : List (Byte × Byte)) (m : Byte) :
    m ≤ runningMax l m ∧ (∀ p ∈ l, p.2 ≤ runningMax l m) ∧ (runningMax l m = m ∨ ∃ p ∈ l, p.2 = runningMax l m) := by
  induction l generalizing m with
  | nil => exact ⟨BitVec.le_refl m, by simp, .inl rfl⟩
  | cons q l ih =>
    obtain ⟨hm, hl, hreached⟩ := ih (if m < q.2 then q.2 else m)
    rw [runningMax_cons]
    simp only [List.mem_cons, forall_eq_or_imp, exists_eq_or_imp]
    refine ⟨?_, ⟨?_, hl⟩, ?_⟩
    · refine BitVec.le_trans ?_ hm
      split
      · bv_omega
      · exact BitVec.le_refl m
    · refine BitVec.le_trans ?_ hm
      split
      · exact BitVec.le_refl _
      · bv_omega
    · rcases hreached with heq | hex
      · rw [heq]
        split
        · exact .inr (.inl rfl)
        · exact .inl rfl
      · exact .inr (.inr hex)

theorem readSym_le_maxLength (len : Table Byte) (sym : Byte) : readSym len sym ≤ maxLength len :=
  (runningMax_bounds (entries len) 0#8).2.1 (sym, readSym len sym) (by simp [entries_eq_map])

/-- The largest length is some symbol's, for 0 is every symbol's when it is the largest. -/
theorem exists_readSym_eq_maxLength (len : Table Byte) : ∃ sym, readSym len sym = maxLength len := by
  obtain ⟨-, -, hzero | ⟨p, hp, heq⟩⟩ := runningMax_bounds (entries len) 0#8
  · have hmax : maxLength len = 0#8 := hzero
    have hle := readSym_le_maxLength len 0#8
    rw [hmax] at hle ⊢
    exact ⟨0#8, by bv_omega⟩
  · rw [entries_eq_map, List.mem_map] at hp
    obtain ⟨sym, -, rfl⟩ := hp
    exact ⟨sym, heq⟩

/-! ### Steps that keep the fields the invariant speaks of -/

/-- The invariant does not speak of the pending word, the sticky bits, the results or the fields of the model's own,
and of the output it reads the emitted bytes as a whole. -/
theorem inv_of_frame {s t : State} (h : Inv s)
    (ht : t = { s with cmdq := t.cmdq, lastErr := t.lastErr, errFlags := t.errFlags, res0 := t.res0, res1 := t.res1,
                       res2 := t.res2, ofifo := t.ofifo, payload := t.payload, turns := t.turns, rdata := t.rdata,
                       draws := t.draws })
    (hemitted : emitted t = emitted s) (hfifo : t.ofifo.length ≤ s.ofifo.length) (herr : t.lastErr ≠ .busy) :
    Inv t := by
  rw [ht]
  exact {
    total_is_sum := h.total_is_sum
    nsym_counts := h.nsym_counts
    hist_tree := h.hist_tree
    tree_of_counts := h.tree_of_counts
    no_codes := h.no_codes
    codes_of_lengths := h.codes_of_lengths
    no_output := fun hp =>
      have ⟨hbits, hcount, hnone, hacc⟩ := h.no_output hp
      ⟨hbits, hcount, hemitted.trans hnone, hacc⟩
    codes_bits := fun hp => (congrArg (fun l => 8 * l.length + s.accN.toNat) hemitted).trans (h.codes_bits hp)
    done_bits := fun hp =>
      have ⟨hacc, hbits⟩ := h.done_bits hp
      ⟨hacc, (congrArg (fun l => 8 * l.length) hemitted).trans hbits⟩
    acc_fits := h.acc_fits
    fifo_fits := hfifo.trans h.fifo_fits
    bits_bounded := h.bits_bounded
    err_legal := herr
    params_legal := h.params_legal }

theorem inv_fail {e : Code} {s : State} (h : Inv s) (he : e ≠ .busy) : Inv (fail e s) :=
  inv_of_frame h rfl rfl (Nat.le_refl _) he

theorem inv_succeed {s : State} (h : Inv s) : Inv (succeed s) :=
  inv_of_frame h rfl rfl (Nat.le_refl _) (by simp)

theorem inv_setResults (a b c : Word) {s : State} (h : Inv s) : Inv (setResults a b c s) :=
  inv_of_frame h rfl rfl (Nat.le_refl _) h.err_legal

theorem inv_idle {s : State} (h : Inv s) : Inv (idle s) :=
  inv_of_frame h rfl rfl (Nat.le_refl _) h.err_legal

theorem inv_dropTurn {s : State} (h : Inv s) : Inv (dropTurn s) :=
  inv_of_frame h rfl rfl (Nat.le_refl _) h.err_legal

/-! ### Reset and CLEAR -/

/-- The reset state meets the invariant whatever the parameters are within their ranges. -/
theorem inv_reset {p : Params} (hp : p.legal) : Inv { State.reset with params := p } where
  total_is_sum := freqSum_constTable_zero.symm
  nsym_counts := (congrArg List.length alphabet_constTable_zero).symm
  hist_tree := fun _ => ⟨rfl, rfl, rfl, rfl⟩
  tree_of_counts := fun hne => absurd rfl hne
  no_codes := fun _ => rfl
  codes_of_lengths := by simp [State.reset]
  no_output := fun _ => ⟨rfl, rfl, rfl, rfl⟩
  codes_bits := by simp [State.reset]
  done_bits := by simp [State.reset]
  acc_fits := Nat.two_pow_pos 0
  fifo_fits := Nat.zero_le _
  bits_bounded := Nat.zero_le _
  err_legal := by simp [State.reset]
  params_legal := hp

theorem inv_resetEvent {s : State} (h : Inv s) : Inv (resetEvent s) :=
  inv_of_frame (inv_reset h.params_legal) rfl rfl (Nat.le_refl _) (by simp [resetEvent, State.reset])

theorem inv_clearState {s : State} (h : Inv s) : Inv (clearState s) :=
  inv_of_frame (inv_reset h.params_legal) rfl rfl (Nat.le_refl _) h.err_legal

/-! ### The host's accesses -/

theorem emitted_readReg (r : Reg) (s : State) : emitted (readReg r s) = emitted s := by
  cases hb : s.busy with
  | true =>
    obtain ⟨n, hn⟩ := readBusy_state r s
    simp [readReg_of_busy hb, hn, emitted]
  | false =>
    by_cases hr : r = .outData
    · subst hr
      rw [readReg_of_idle hb]
      exact emitted_popOutData s
    · rw [readReg_of_idle_ne hb hr]
      rfl

/-- A read takes bytes out of the FIFO only. -/
theorem length_ofifo_readReg_le (r : Reg) (s : State) : (readReg r s).ofifo.length ≤ s.ofifo.length := by
  cases hb : s.busy with
  | true =>
    obtain ⟨n, hn⟩ := readBusy_state r s
    simp [readReg_of_busy hb, hn]
  | false =>
    by_cases hr : r = .outData
    · subst hr
      cases hf : s.ofifo with
      | nil => simp [readReg_of_idle hb, readIdle, popOutData_nil hf, hf]
      | cons b bs => simp [readReg_of_idle hb, readIdle, popOutData_cons hf]
    · simp [readReg_of_idle_ne hb hr]

theorem inv_hostAccess {a : Access} {s t : State} (h : Inv s) (hacc : hostAccess a s = .next t) : Inv t := by
  obtain ⟨off, -, -, ⟨-, rfl⟩ | ⟨v, -, rfl⟩⟩ := hostAccess_cases hacc
  · refine inv_of_frame h ?_ (emitted_readReg _ s) (length_ofifo_readReg_le _ s) ?_
    · rw [readReg_frame]
    · rw [readReg_frame]
      exact h.err_legal
  · rw [writeReg_frame]
    exact inv_of_frame h rfl rfl (Nat.le_refl _) h.err_legal

/-! ### The commands -/

/-- A PUSH that counts: no counter wraps, as each is at most `total`. -/
theorem inv_countSymbol {s : State} (sym : Byte) (h : Inv s) (hphase : s.phase = .hist)
    (hfits : s.total ≠ 0xFFFFFFFF#32) : Inv (countSymbol sym s) := by
  have hle := readSym_le_freqSum s.freq sym
  rw [← h.total_is_sum] at hle
  have hsum := freqSum_writeSym s.freq sym (readSym s.freq sym + 1#32)
  rw [← h.total_is_sum] at hsum
  have hcount := length_alphabet_writeSym s.freq sym (v := readSym s.freq sym + 1#32) (by bv_omega)
  have hroom := length_alphabet_le s.freq
  exact {
    total_is_sum := by
      simp only [countSymbol]
      bv_omega
    nsym_counts := by
      simp only [countSymbol, hcount, ← h.nsym_counts] at hroom ⊢
      split
      · bv_omega
      · rfl
    hist_tree := h.hist_tree
    tree_of_counts := fun hne => absurd hphase hne
    no_codes := h.no_codes
    codes_of_lengths := h.codes_of_lengths
    no_output := h.no_output
    codes_bits := h.codes_bits
    done_bits := h.done_bits
    acc_fits := h.acc_fits
    fifo_fits := h.fifo_fits
    bits_bounded := h.bits_bounded
    err_legal := h.err_legal
    params_legal := h.params_legal }

theorem inv_buildTree {s : State} (h : Inv s) (hphase : s.phase = .hist) : Inv (buildTree s) where
  total_is_sum := h.total_is_sum
  nsym_counts := h.nsym_counts
  hist_tree := by simp [buildTree]
  tree_of_counts := fun _ => ⟨rfl, rfl, rfl, rfl⟩
  no_codes := fun _ => h.no_codes (.inl hphase)
  codes_of_lengths := by simp [buildTree]
  no_output := fun _ => h.no_output (.inl hphase)
  codes_bits := by simp [buildTree]
  done_bits := by simp [buildTree]
  acc_fits := h.acc_fits
  fifo_fits := h.fifo_fits
  bits_bounded := h.bits_bounded
  err_legal := h.err_legal
  params_legal := h.params_legal

/-- CANON in TREE: no bit has been output, so the bits are in balance when the encode pass begins. -/
theorem inv_assignCodes {s : State} (h : Inv s) (hphase : s.phase = .tree) (hwidth : s.maxlen.toNat ≤ codeWidth) :
    Inv { s with code := canonicalCodes s.len s.maxlen.toNat, phase := .codes } where
  total_is_sum := h.total_is_sum
  nsym_counts := h.nsym_counts
  hist_tree := by simp
  tree_of_counts := fun _ => h.tree_of_counts (by simp [hphase])
  no_codes := by simp
  codes_of_lengths := fun _ => ⟨hwidth, rfl⟩
  no_output := by simp
  codes_bits := fun _ => by
    obtain ⟨hbits, -, hnone, hacc⟩ := h.no_output (.inr hphase)
    change 8 * (emitted s).length + s.accN.toNat = s.outBits.toNat
    simp [hbits, hnone, hacc]
  done_bits := by simp
  acc_fits := h.acc_fits
  fifo_fits := h.fifo_fits
  bits_bounded := h.bits_bounded
  err_legal := h.err_legal
  params_legal := h.params_legal

/-- In the encode pass every length is at most `CODE_W` (43_canonical.md R163). -/
theorem len_le_codeWidth {s : State} (h : Inv s) (hphase : s.phase = .codes ∨ s.phase = .done) (sym : Byte) :
    (readSym s.len sym).toNat ≤ 64 := by
  obtain ⟨hwidth, -⟩ := h.codes_of_lengths hphase
  obtain ⟨-, -, -, hmax⟩ := h.tree_of_counts (by rcases hphase with hp | hp <;> simp [hp])
  exact Nat.le_trans (hmax ▸ readSym_le_maxLength s.len sym) hwidth

@[simp] theorem encodeSymbol_accN_toNat (sym : Byte) (s : State) :
    (encodeSymbol sym s).accN.toNat = (s.accN.toNat + (readSym s.len sym).toNat) % 8 := by
  simp [encodeSymbol, packCode, pack]

@[simp] theorem encodeSymbol_ofifo (sym : Byte) (s : State) :
    (encodeSymbol sym s).ofifo = s.ofifo ++
      (pack s.acc.toNat s.accN.toNat (readSym s.code sym).toNat (readSym s.len sym).toNat).bytes := rfl

theorem emitted_encodeSymbol (sym : Byte) (s : State) :
    emitted (encodeSymbol sym s) = emitted s ++
      (pack s.acc.toNat s.accN.toNat (readSym s.code sym).toNat (readSym s.len sym).toNat).bytes :=
  emitted_pushOut _ s

/-- The pending bits the packer leaves fit the register they are stored in, which has room for seven. -/
theorem encodeSymbol_acc_toNat (sym : Byte) (s : State) :
    (encodeSymbol sym s).acc.toNat =
      (pack s.acc.toNat s.accN.toNat (readSym s.code sym).toNat (readSym s.len sym).toNat).acc := by
  have hlt := pack_acc_lt s.acc.toNat s.accN.toNat (readSym s.code sym).toNat (readSym s.len sym).toNat
  have hseven := Nat.pow_le_pow_right (n := 2) (by decide) (Nat.le_of_lt_succ
    (pack_accN_lt s.acc.toNat s.accN.toNat (readSym s.code sym).toNat (readSym s.len sym).toNat))
  exact Nat.mod_eq_of_lt (Nat.lt_of_lt_of_le hlt hseven)

theorem encodeSymbol_acc_lt (sym : Byte) (s : State) :
    (encodeSymbol sym s).acc.toNat < 2 ^ (encodeSymbol sym s).accN.toNat := by
  rw [encodeSymbol_acc_toNat, encodeSymbol_accN_toNat]
  exact pack_acc_lt _ _ _ _

/-- ENC: as long as `enc_count` has not reached its limit, `out_bits` cannot wrap, a code having at most 64 bits. -/
theorem inv_encodeSymbol {s : State} (sym : Byte) (h : Inv s) (hphase : s.phase = .codes)
    (hcount : s.encCount ≠ 0xFFFFFFFF#32) (hroom : bytesNeeded sym s ≤ fifoSpace s) : Inv (encodeSymbol sym s) := by
  have hlen := len_le_codeWidth h (.inl hphase) sym
  have hbound := h.bits_bounded
  have hbits : (s.outBits + (readSym s.len sym).setWidth 64).toNat =
      s.outBits.toNat + (readSym s.len sym).toNat := by
    rw [BitVec.toNat_add, BitVec.toNat_setWidth]
    omega
  have hencs : (s.encCount + 1#32).toNat = s.encCount.toNat + 1 := by bv_omega
  have hp : (encodeSymbol sym s).phase = .codes := hphase
  exact {
    total_is_sum := h.total_is_sum
    nsym_counts := h.nsym_counts
    hist_tree := h.hist_tree
    tree_of_counts := h.tree_of_counts
    no_codes := h.no_codes
    codes_of_lengths := h.codes_of_lengths
    no_output := by simp [hp]
    codes_bits := fun _ => by
      have hold := h.codes_bits hphase
      rw [emitted_encodeSymbol, encodeSymbol_accN_toNat, List.length_append, length_pack_bytes]
      change _ = (s.outBits + (readSym s.len sym).setWidth 64).toNat
      omega
    done_bits := by simp [hp]
    acc_fits := encodeSymbol_acc_lt sym s
    fifo_fits := by
      have hfits := h.fifo_fits
      rw [encodeSymbol_ofifo, List.length_append, length_pack_bytes]
      change _ ≤ s.params.ofifoDepth.toNat
      simp only [bytesNeeded, fifoSpace] at hroom
      omega
    bits_bounded := by
      change (s.outBits + (readSym s.len sym).setWidth 64).toNat ≤ 64 * (s.encCount + 1#32).toNat
      omega
    err_legal := h.err_legal
    params_legal := h.params_legal }

/-- What FLUSH writes when it fails in nothing (44_lookup_encode.md R174): the phase alone, or also the padded byte. -/
theorem bodyFlush_ok_cases {s s' : State} (h : bodyFlush s = .ok s') :
    (s.accN = 0#3 ∧ s' = { s with phase := .done }) ∨
    (s.accN ≠ 0#3 ∧ s.ofifo.length ≠ s.params.ofifoDepth.toNat ∧
      s' = { pushOut [flushByte s] s with acc := 0#7, accN := 0#3, phase := .done }) := by
  unfold bodyFlush at h
  split at h
  · next hpos =>
    split at h
    · cases h
    · next hroom => exact .inr ⟨by bv_omega, hroom, by simpa using h.symm⟩
  · next hzero => exact .inl ⟨by bv_omega, by simpa using h.symm⟩

/-- FLUSH: the padding byte brings the emitted bits up to the next multiple of 8. -/
theorem inv_bodyFlush {s s' : State} (h : Inv s) (hphase : s.phase = .codes) (hb : bodyFlush s = .ok s') : Inv s' := by
  have hbits := h.codes_bits hphase
  have htree := h.tree_of_counts (by simp [hphase])
  rcases bodyFlush_ok_cases hb with ⟨hzero, rfl⟩ | ⟨hpos, hroom, rfl⟩
  · exact {
      total_is_sum := h.total_is_sum
      nsym_counts := h.nsym_counts
      hist_tree := by simp
      tree_of_counts := fun _ => htree
      no_codes := by simp
      codes_of_lengths := fun _ => h.codes_of_lengths (.inl hphase)
      no_output := by simp
      codes_bits := by simp
      done_bits := fun _ => ⟨hzero, by
        change 8 * (emitted s).length = s.outBits.toNat + padCount s.outBits.toNat
        simp only [hzero, padCount] at hbits ⊢
        bv_omega⟩
      acc_fits := h.acc_fits
      fifo_fits := h.fifo_fits
      bits_bounded := h.bits_bounded
      err_legal := h.err_legal
      params_legal := h.params_legal }
  · exact {
      total_is_sum := h.total_is_sum
      nsym_counts := h.nsym_counts
      hist_tree := by simp
      tree_of_counts := fun _ => htree
      no_codes := by simp
      codes_of_lengths := fun _ => h.codes_of_lengths (.inl hphase)
      no_output := by simp
      codes_bits := by simp
      done_bits := fun _ => ⟨rfl, by
        change 8 * (emitted (pushOut [flushByte s] s)).length = s.outBits.toNat + padCount s.outBits.toNat
        simp only [emitted_pushOut, List.length_append, List.length_singleton, padCount]
        bv_omega⟩
      acc_fits := Nat.two_pow_pos 0
      fifo_fits := by
        have hfits := h.fifo_fits
        simp only [pushOut_ofifo, pushOut_params, List.length_append, List.length_singleton]
        omega
      bits_bounded := h.bits_bounded
      err_legal := h.err_legal
      params_legal := h.params_legal }

/-- Every body that raises no error keeps the invariant, in the phases its command may run in. -/
theorem inv_bodyOf {i : Instr} {s s' : State} (h : Inv s) (hl : legal i s.phase = true)
    (hb : bodyOf i s = .ok s') : Inv s' := by
  have hmem := (legal_iff_mem_legalPhases i s.phase).1 hl
  rcases bodyOf_ok_cases hb with ⟨-, rfl⟩ | ⟨-, rfl⟩ | ⟨sym, rfl, hfits, rfl⟩ | ⟨sym, -, rfl⟩ | ⟨rfl, rfl⟩ |
    ⟨idx, n, -, -, rfl⟩ | ⟨rfl, hwidth, rfl⟩ | ⟨sym, -, hlookup⟩ | ⟨sym, rfl, -, hcount, hroom, rfl⟩ | ⟨rfl, hflush⟩
  · exact h
  · exact inv_clearState h
  · exact inv_countSymbol sym h (List.mem_singleton.1 hmem) hfits
  · exact inv_setResults _ _ _ h
  · exact inv_buildTree h (List.mem_singleton.1 hmem)
  · unfold nodeResults
    split <;> exact inv_setResults _ _ _ h
  · exact inv_assignCodes h (List.mem_singleton.1 hmem) hwidth
  · cases hlookup
    exact inv_setResults _ _ _ h
  · exact inv_encodeSymbol sym h (List.mem_singleton.1 hmem) hcount hroom
  · exact inv_bodyFlush h (List.mem_singleton.1 hmem) hflush

theorem inv_exec {i : Instr} {s t : State} (h : Inv s) (hexec : exec i s = .next t) : Inv t := by
  rcases exec_cases hexec with ⟨-, rfl⟩ | ⟨-, e, he, rfl⟩ | ⟨hl, s', hb, rfl⟩
  · exact inv_fail h (by decide)
  · exact inv_fail h (by rcases bodyOf_error he with rfl | rfl | rfl | rfl <;> decide)
  · exact inv_succeed (inv_bodyOf h hl hb)

end Sys2Proof.Machine

namespace Sys2Proof.Proofs

open Sys2Proof.Machine

/-- Settles O56: the parameters of the reset state are in their ranges. -/
theorem resetMeetsTheInvariant : Obligations.ResetMeetsTheInvariant := inv_reset (by decide)

/-- Settles O57: by whose turn it was. The Engine's completions keep the invariant command by command
(`inv_bodyOf`). -/
theorem everyStepKeepsTheInvariant : Obligations.EveryStepKeepsTheInvariant := by
  intro s t h hstep
  have hdrop := inv_dropTurn h
  rcases step_cases hstep with ⟨a, rest, -, hacc⟩ | ⟨rest, -, rfl⟩ | ⟨-, -, rfl⟩ | ⟨-, w, -, -, rfl⟩ |
    ⟨-, w, i, u, -, -, hexec, rfl⟩
  · exact inv_hostAccess hdrop hacc
  · exact inv_resetEvent hdrop
  · exact hdrop
  · exact inv_idle (inv_fail hdrop (by decide))
  · exact inv_idle (inv_exec hdrop hexec)

/-- Settles O38: in DONE the emitted bits are `out_bits` and the padding to whole bytes. -/
theorem payloadLengthAfterFlush : Obligations.PayloadLengthAfterFlush := by
  intro s h hphase
  obtain ⟨-, hbits⟩ := h.done_bits hphase
  simp only [padCount] at hbits
  change (emitted s).length = _
  omega

/-- Settles O35: eight free bytes are enough for seven pending bits and a code of 64. -/
theorem encWithAnEmptyFifoSucceeds : Obligations.EncWithAnEmptyFifoSucceeds := by
  intro s sym h hphase hempty hcode hcount
  have hlen := len_le_codeWidth h (.inl hphase) sym
  obtain ⟨hdepth, -⟩ := h.params_legal
  have hroom : ¬ fifoSpace s < bytesNeeded sym s := by
    have haccN := s.accN.isLt
    simp only [fifoSpace, bytesNeeded, hempty, List.length_nil]
    omega
  have hbody : bodyOf (.enc sym) s = .ok (encodeSymbol sym s) := by
    simp [bodyOf, bodyEnc, hcode, hcount, hroom]
  exact ⟨_, exec_of_ok (by rw [hphase]; rfl) hbody, rfl⟩

end Sys2Proof.Proofs
end

section
/-! PROOFS. The command cycle: what a completion does with the pending word (40_control.md R111, R112). -/

-- One declaration after another: this keeps the compile of the whole text within its memory.
set_option Elab.async false

namespace Sys2Proof.Machine

theorem decode_of_not_wellFormed {w : Word} (h : wellFormed w = false) : decode w = .badCmd := by
  cases hd : decode w with
  | badCmd => rfl
  | command i => simp [(wellFormed_iff_decodes w).2 ⟨i, hd⟩] at h

/-- The Engine's step with a pending word that decodes to a command. -/
theorem step_of_command {s : State} {w : Word} {i : Instr} (heng : engineNext s = true) (hw : s.cmdq = some w)
    (hd : decode w = .command i) : step s = onNext idle (exec i (dropTurn s)) := by
  rw [step_of_engine heng, complete_of_some (s := dropTurn s) hw, executeWord, hd]

/-- The Engine's step with a pending word that decodes to none. -/
theorem step_of_badCmd {s : State} {w : Word} (heng : engineNext s = true) (hw : s.cmdq = some w)
    (hd : decode w = .badCmd) : step s = .next (idle (fail .badCmd (dropTurn s))) := by
  rw [step_of_engine heng, complete_of_some (s := dropTurn s) hw, executeWord, hd]
  rfl

/-- A command touches neither the pending word nor the fields of the model's own but `payload`. -/
theorem exec_frame {i : Instr} {s t : State} (h : exec i s = .next t) :
    t.cmdq = s.cmdq ∧ t.params = s.params ∧ t.turns = s.turns ∧ t.rdata = s.rdata ∧ t.draws = s.draws := by
  rcases exec_cases h with ⟨-, rfl⟩ | ⟨-, e, -, rfl⟩ | ⟨-, s', hb, rfl⟩
  · exact ⟨rfl, rfl, rfl, rfl, rfl⟩
  · exact ⟨rfl, rfl, rfl, rfl, rfl⟩
  · obtain ⟨hcmdq, -, hparams, hturns, hrdata, hdraws⟩ := bodyOf_frame hb
    exact ⟨hcmdq, hparams, hturns, hrdata, hdraws⟩

theorem errBit_eq_shiftLeft {e : Code} (h : e ≠ .ok) : errBit e = 1#7 <<< ((codeNum e).toNat - 1) := by
  revert h
  cases e <;> decide

/-- No command's body raises success or a busy violation. -/
theorem bodyOf_error_ne {i : Instr} {s : State} {e : Code} (h : bodyOf i s = .error e) : e ≠ .ok ∧ e ≠ .busy := by
  rcases bodyOf_error h with rfl | rfl | rfl | rfl <;> decide

/-- A command succeeds, with the writes of its body, or fails with a code that is neither 0 nor E_BUSY. -/
theorem exec_succeeds_or_fails {i : Instr} {s t : State} (h : exec i s = .next t) :
    (∃ s', bodyOf i s = .ok s' ∧ t = succeed s') ∨ ∃ e, e ≠ .ok ∧ e ≠ .busy ∧ t = fail e s := by
  rcases exec_cases h with ⟨-, rfl⟩ | ⟨-, e, he, rfl⟩ | ⟨-, s', hb, rfl⟩
  · exact .inr ⟨.phase, by decide, by decide, rfl⟩
  · exact .inr ⟨e, (bodyOf_error_ne he).1, (bodyOf_error_ne he).2, rfl⟩
  · exact .inl ⟨s', hb, rfl⟩

theorem tableWord_toNat (w : Word) : tableWord 32 w.toNat = w := by
  rw [tableWord, Nat.mod_eq_of_lt w.isLt, BitVec.ofNat_toNat, BitVec.setWidth_eq]

end Sys2Proof.Machine

namespace Sys2Proof.Proofs

open Sys2Proof.Machine

/-- Settles O7: the completion around a command is `busy <- 0`; a word put by `withFetchWord` is pending with the
Engine's turn first. -/
theorem stepRunsTheDecodedCommand : Obligations.StepRunsTheDecodedCommand := by
  refine ⟨fun s t w i heng hw hd hexec => ?_, fun s t i hexec => ?_⟩
  · rw [step_of_command heng hw hd, hexec]
    rfl
  · have hw : (s.withFetchWord 32 (encode i).toNat).cmdq = some (encode i) := congrArg some (tableWord_toNat _)
    have hdrop : dropTurn (s.withFetchWord 32 (encode i).toNat) = { s with cmdq := some (encode i) } := by
      rw [← hw]
      rfl
    rw [step_of_command rfl hw (decode_encode i), hdrop, hexec]
    rfl

/-- Settles O8: a word that is not well-formed decodes to BADCMD, for which the completion is the error exit. -/
theorem illegalWordCompletesWithBadCmd : Obligations.IllegalWordCompletesWithBadCmd :=
  fun _ _ heng hw hwf => step_of_badCmd heng hw (decode_of_not_wellFormed hwf)

/-- Settles O9: a word that decodes to a command completes as every command goes on, any other with E_BADCMD. -/
theorem everyPendingCommandCompletes : Obligations.EveryPendingCommandCompletes := by
  intro s w heng hw
  cases hd : decode w with
  | badCmd => exact ⟨_, step_of_badCmd heng hw hd, rfl, rfl, rfl, rfl, rfl⟩
  | command i =>
    obtain ⟨t, ht⟩ := exec_goes_on i (dropTurn s)
    obtain ⟨-, hparams, hturns, hrdata, hdraws⟩ := exec_frame ht
    exact ⟨idle t, by rw [step_of_command heng hw hd, ht]; rfl, rfl, hturns, hparams, hdraws, hrdata⟩

/-- Settles O10: the completion of nothing is no change. -/
theorem engineHasNoStepWhileIdle : Obligations.EngineHasNoStepWhileIdle := by
  intro s heng hidle
  rw [step_of_engine heng, complete_of_none (s := dropTurn s) (busy_eq_false.1 hidle)]

/-- Settles O12: the two ways a command ends (`exec_succeeds_or_fails`). -/
theorem failedCommandsArePrecise : Obligations.FailedCommandsArePrecise := by
  intro i s t hexec
  rcases exec_succeeds_or_fails hexec with ⟨s', hb, rfl⟩ | ⟨e, hok, hbusy, rfl⟩
  · exact ⟨fun hne => absurd rfl hne, fun _ => (bodyOf_frame hb).2.1⟩
  · refine ⟨fun _ => ⟨?_, hbusy⟩, fun heq => absurd heq hok⟩
    rw [fail_lastErr, ← errBit_eq_shiftLeft hok]
    rfl

end Sys2Proof.Proofs
end

section
/-! PROOFS. The effects of the single commands (40_control.md R115, R116, 41_histogram.md R130, R131,
42_tree_builder.md R150, 44_lookup_encode.md R170, R171). -/

-- One declaration after another: this keeps the compile of the whole text within its memory.
set_option Elab.async false

namespace Sys2Proof.Machine

/-- The second result of RDNODE for a leaf: bit 31 and the symbol (42_tree_builder.md R150). -/
theorem leafResult_eq_append (sym : Byte) : 0x80000000#32 ||| sym.setWidth 32 = 1#1 ++ 0#23 ++ sym := by
  revert sym
  decide

/-- The third result of RDNODE for an internal node: the children in bits 24:16 and 8:0 (42_tree_builder.md R150). -/
theorem childrenResult_eq_append (l r : NodeIdx) :
    (r.setWidth 32 <<< 16) ||| l.setWidth 32 = 0#7 ++ r ++ 0#7 ++ l := by
  have hr : r.toNat <<< 16 < 2 ^ 32 := by
    rw [Nat.shiftLeft_eq]
    omega
  have happend : (0#7 ++ r ++ 0#7 ++ l).toNat = r.toNat <<< 16 ||| l.toNat := by
    rw [BitVec.toNat_append, BitVec.toNat_append, BitVec.toNat_append]
    simp [← Nat.shiftLeft_add]
  apply BitVec.eq_of_toNat_eq
  rw [BitVec.toNat_or, BitVec.toNat_shiftLeft, BitVec.toNat_setWidth_of_le (by decide),
    BitVec.toNat_setWidth_of_le (by decide), Nat.mod_eq_of_lt hr]
  exact happend.symm

/-- A code is its high half before its low half (44_lookup_encode.md R170). -/
theorem halves_append (c : DWord) : c.extractLsb' 32 32 ++ c.extractLsb' 0 32 = c := by
  rw [BitVec.extractLsb'_append_extractLsb'_eq_extractLsb' (by decide)]
  exact BitVec.extractLsb'_eq_self

theorem exec_rdnode_of_some {s : State} {idx : NodeIdx} {n : Node} (hphase : s.phase ≠ .hist)
    (hn : s.node[idx.toNat]? = some n) : exec (.rdnode idx) s = .next (succeed (nodeResults n s)) := by
  have hl : legal (.rdnode idx) s.phase = true := by
    cases hp : s.phase <;> simp_all [legal]
  exact exec_of_ok hl (by simp [bodyOf, bodyRdnode, readNode, hn])

theorem exec_rdnode_of_none {s : State} {idx : NodeIdx} (hphase : s.phase ≠ .hist)
    (hn : s.node[idx.toNat]? = none) : exec (.rdnode idx) s = .next (fail .range s) := by
  have hl : legal (.rdnode idx) s.phase = true := by
    cases hp : s.phase <;> simp_all [legal]
  exact exec_of_error hl (by simp [bodyOf, bodyRdnode, readNode, hn])

theorem exec_enc_of_error {s : State} {sym : Byte} {e : Code} (hphase : s.phase = .codes)
    (h : bodyEnc sym s = .error e) : exec (.enc sym) s = .next (fail e s) :=
  exec_of_error (by rw [hphase]; rfl) h

end Sys2Proof.Machine

namespace Sys2Proof.Proofs

open Sys2Proof.Machine

/-- Settles O14: NOP is legal in every phase and its body writes nothing. -/
theorem nopClearsLastErrOnly : Obligations.NopClearsLastErrOnly := fun _ => exec_of_ok rfl rfl

/-- Settles O15: CLEAR is legal in every phase and its body writes the reset values. -/
theorem clearReachesTheResetState : Obligations.ClearReachesTheResetState :=
  fun s => exec_of_ok (i := .clear) (s' := clearState s) rfl rfl

/-- Settles O16: the PUSH counts (`pushed`), which touches the counter of its byte alone. -/
theorem pushCountsItsByte : Obligations.PushCountsItsByte := by
  intro s sym hphase hfits
  refine ⟨pushed s sym, exec_push_of_fits sym hphase hfits, rfl, ?_, fun other hne => ?_⟩
  · rw [pushed_freq, readSym_writeSym_same]
  · rw [pushed_freq, readSym_writeSym_of_ne _ _ hne]

/-- Settles O17: the body raises E_CAPACITY. -/
theorem pushBeyondTheLastCountFails : Obligations.PushBeyondTheLastCountFails := by
  intro s sym hphase hfull
  exact exec_of_error (i := .push sym) (by rw [hphase]; rfl) (if_pos hfull)

/-- Settles O18: RDFREQ is legal in every phase and its body writes the results. -/
theorem rdfreqReadsTheCount : Obligations.RdfreqReadsTheCount :=
  fun s sym => exec_of_ok (i := .rdfreq sym) (s' := setResults (readSym s.freq sym) 0#32 0#32 s) rfl rfl

/-- Settles O26: by the entry read, a leaf, an internal node or none. -/
theorem rdnodeReadsAnEntry : Obligations.RdnodeReadsAnEntry := by
  intro s idx hphase
  refine ⟨fun n hn hkind => ?_, fun n hn hkind => ?_, fun hrange => ?_⟩
  · rw [exec_rdnode_of_some hphase hn, nodeResults, hkind, ← leafResult_eq_append]
    rfl
  · rw [exec_rdnode_of_some hphase hn, nodeResults, hkind, ← childrenResult_eq_append]
    rfl
  · exact exec_rdnode_of_none hphase (List.getElem?_eq_none hrange)

/-- Settles O32: LOOKUP is legal in CODES and DONE, and the two halves of a code make the code. -/
theorem lookupReadsTheCode : Obligations.LookupReadsTheCode := by
  intro s sym hphase
  have hl : legal (.lookup sym) s.phase = true := by rcases hphase with hp | hp <;> rw [hp] <;> rfl
  refine ⟨_, exec_of_ok hl rfl, rfl, ?_, ?_⟩
  · exact halves_append (readSym s.code sym)
  · rw [succeed_res2, setResults_res2, BitVec.toNat_setWidth]
    omega

/-- Settles O34: the checks of ENC's body in their order. -/
theorem encErrorsInOrder : Obligations.EncErrorsInOrder := by
  intro s sym hphase
  refine ⟨fun hnone => ?_, fun hcode hlimit => ?_, fun hcode hcount hfull => ?_⟩
  · exact exec_enc_of_error hphase (by simp [bodyEnc, hnone])
  · exact exec_enc_of_error hphase (by simp [bodyEnc, hcode, hlimit])
  · exact exec_enc_of_error hphase (by simp [bodyEnc, hcode, hcount, fifoSpace, bytesNeeded, hfull])

end Sys2Proof.Proofs
end

section
/-! PROOFS. The host's reads and writes, register by register (10_state.md R24 to R34, 20_memory.md R63 to R67). -/

-- One declaration after another: this keeps the compile of the whole text within its memory.
set_option Elab.async false

namespace Sys2Proof.Machine

/-- The host's turn with a read at an aligned offset of the window is the read of the register there. -/
theorem step_of_readAt {s : State} {off : Nat} {rest : List Turn} (h : s.turns = .host (readAt s.params off) :: rest)
    (hoff : off < 256) (h4 : off % 4 = 0) : step s = .next (readReg (regAt off) (dropTurn s)) :=
  (step_of_host h).trans (hostAccess_readAt (s := dropTurn s) hoff h4)

theorem dropTurn_of_turns {s : State} {t : Turn} {rest : List Turn} (h : s.turns = t :: rest) :
    dropTurn s = { s with turns := rest } := by
  rw [dropTurn, h, List.tail_cons]

theorem regWord_dropTurn (s : State) (r : Reg) : regWord (dropTurn s) r = regWord s r := by
  cases r <;> rfl

/-- A read while idle shows the register and changes nothing of the block, but for OUT_DATA (20_memory.md R63). -/
theorem step_of_idle_read {s : State} {off : Nat} {rest : List Turn}
    (h : s.turns = .host (readAt s.params off) :: rest) (hoff : off < 256) (h4 : off % 4 = 0) (hidle : s.busy = false)
    (hr : regAt off ≠ .outData) : step s = .next (afterRead (regWord s (regAt off)) s) := by
  rw [step_of_readAt h hoff h4, readReg_of_idle_ne (s := dropTurn s) hidle hr, regWord_dropTurn]
  rfl

/-- The identification registers read the same whether busy or idle (10_state.md R24). -/
theorem readReg_identification {r : Reg} (hr : r = .id ∨ r = .version ∨ r = .config) (s : State) :
    readReg r s = { s with rdata := regWord s r } := by
  cases hb : s.busy with
  | true => rcases hr with rfl | rfl | rfl <;> rw [readReg_of_busy hb] <;> rfl
  | false => exact readReg_of_idle_ne hb (by rcases hr with rfl | rfl | rfl <;> decide)

theorem step_of_identification {s : State} {r : Reg} {rest : List Turn}
    (h : s.turns = .host (readAt s.params (regOffset r)) :: rest) (hr : r = .id ∨ r = .version ∨ r = .config) :
    step s = .next (afterRead (regWord s r) s) := by
  rw [step_of_readAt h (by rcases hr with rfl | rfl | rfl <;> decide) (by rcases hr with rfl | rfl | rfl <;> decide),
    regAt_regOffset, readReg_identification hr, regWord_dropTurn]
  rfl

theorem regAt_of_reserved {off : Nat} (h : 0x44 ≤ off) : regAt off = .reserved := by
  unfold regAt
  split
  case h_18 => rfl
  all_goals omega

theorem valid_byte_eq_append (b : Byte) : (1#1 ++ b).setWidth 32 = 0#23 ++ 1#1 ++ b := by
  revert b
  decide

/-- What a read while busy shows (20_memory.md R66): 0 at CMD, OUT_DATA and the reserved offsets, BUSY = 1 at STATUS. -/
theorem readBusy_value (r : Reg) (s : State) :
    (r = .status → (readBusy r s).1.getLsbD 0 = true) ∧
    (r = .cmd ∨ r = .outData ∨ r = .reserved → (readBusy r s).1 = 0#32) := by
  constructor
  · rintro rfl
    simp [readBusy]
  · rintro (rfl | rfl | rfl) <;> rfl

/-- A read while busy changes nothing of the block: a value for the host, and maybe a draw. -/
theorem step_of_busy_read {s : State} {off : Nat} {rest : List Turn}
    (h : s.turns = .host (readAt s.params off) :: rest) (hoff : off < 256) (h4 : off % 4 = 0) (hbusy : s.busy = true) :
    ∃ n, step s = .next { afterRead (readBusy (regAt off) (dropTurn s)).1 s with draws := n } := by
  obtain ⟨n, hn⟩ := readBusy_state (regAt off) (dropTurn s)
  refine ⟨n, ?_⟩
  rw [step_of_readAt h hoff h4, readReg_of_busy (s := dropTurn s) hbusy, hn]
  rfl

/-! ### The fields of the composed registers -/

/-- The fields of STATUS (10_state.md R26), from bit 0 up. -/
theorem statusWord_fields (s : State) :
    (statusWord s).extractLsb' 0 1 = BitVec.ofBool s.busy ∧
    (statusWord s).extractLsb' 1 2 = phaseNum s.phase ∧
    (statusWord s).extractLsb' 3 1 = 0#1 ∧
    (statusWord s).extractLsb' 4 4 = codeNum s.lastErr ∧
    (statusWord s).extractLsb' 8 3 = s.accN ∧
    (statusWord s).extractLsb' 11 1 = 0#1 ∧
    (statusWord s).extractLsb' 12 1 = BitVec.ofBool (outNonempty s) ∧
    (statusWord s).extractLsb' 13 1 = BitVec.ofBool (outFull s) ∧
    (statusWord s).extractLsb' 14 2 = 0#2 ∧
    (statusWord s).extractLsb' 16 16 = BitVec.ofNat 16 s.ofifo.length := by
  unfold statusWord
  simp (disch := decide) only [BitVec.extractLsb'_append_eq_of_le, BitVec.extractLsb'_append_eq_of_add_le]
  simp

/-- The fields of TREEINFO (10_state.md R30), from bit 0 up. -/
theorem treeInfoWord_fields (s : State) :
    (treeInfoWord s).extractLsb' 0 10 = BitVec.ofNat 10 s.nnodes ∧
    (treeInfoWord s).extractLsb' 10 6 = 0#6 ∧
    (treeInfoWord s).extractLsb' 16 9 = (if 0 < s.nnodes then s.root else 0#9) ∧
    (treeInfoWord s).extractLsb' 25 6 = 0#6 ∧
    (treeInfoWord s).extractLsb' 31 1 = BitVec.ofBool (rootValid s) := by
  unfold treeInfoWord
  simp (disch := decide) only [BitVec.extractLsb'_append_eq_of_le, BitVec.extractLsb'_append_eq_of_add_le]
  simp

/-- A bit is the field of one bit at its place. -/
theorem getLsbD_of_extractLsb' {v : Word} {k : Nat} {b : Bool} (h : v.extractLsb' k 1 = BitVec.ofBool b) :
    v.getLsbD k = b := by
  have hbit := congrArg (fun x => x.getLsbD 0) h
  simpa using hbit

/-- The fields of ERR_FLAGS (10_state.md R27). -/
theorem errFlagsWord_fields (s : State) :
    (errFlagsWord s).extractLsb' 1 7 = s.errFlags ∧ (errFlagsWord s).getLsbD 0 = false ∧
    (errFlagsWord s).extractLsb' 8 24 = 0#24 := by
  unfold errFlagsWord
  refine ⟨?_, by simp, ?_⟩
  · ext i hi
    simp [show 1 + i < 32 by omega, BitVec.getLsbD_eq_getElem hi]
  · ext i hi
    simp

/-- The fields of MAXLEN (10_state.md R30). -/
theorem setWidth_byte_fields (b : Byte) :
    (b.setWidth 32).extractLsb' 0 8 = b ∧ (b.setWidth 32).extractLsb' 8 24 = 0#24 := by
  constructor
  · rw [BitVec.extractLsb'_setWidth_of_le (by decide), BitVec.extractLsb'_eq_self]
  · ext i hi
    simp

theorem writeReg_errFlags_of_idle {s : State} {v : Word} (h : s.busy = false) :
    writeReg .errFlags v s = { s with errFlags := clearErrFlags v s.errFlags } := by
  simp [writeReg, h]

/-- A write-1-to-clear, bit by bit (20_memory.md R64): code `k` stands at bit `k - 1` of the field. -/
theorem getLsbD_clearErrFlags (v : Word) (flags : BitVec 7) {k : Nat} (hk : 1 ≤ k) (hk' : k ≤ 7) :
    (clearErrFlags v flags).getLsbD (k - 1) = (flags.getLsbD (k - 1) && !v.getLsbD k) := by
  simp [clearErrFlags, show k - 1 < 7 by omega, show 1 + (k - 1) = k by omega]

/-- Any access but three leaves the block as it is (20_memory.md R67). -/
theorem hostAccess_keeps_block {a : Access} {s t : State} (h : hostAccess a s = .next t)
    (hcmd : ∀ v, a ≠ writeAt s.params 0x0C v) (herr : ∀ v, a ≠ writeAt s.params 0x14 v)
    (hout : a ≠ readAt s.params 0x3C) : t = { s with rdata := t.rdata, draws := t.draws } := by
  obtain ⟨off, -, -, ⟨rfl, rfl⟩ | ⟨v, rfl, rfl⟩⟩ := hostAccess_cases h
  · cases hb : s.busy with
    | true =>
      obtain ⟨n, hn⟩ := readBusy_state (regAt off) s
      rw [readReg_of_busy hb, hn]
    | false =>
      have hr : regAt off ≠ .outData := fun hr => hout (by rw [(regAt_eq_iff (by decide)).1 hr]; rfl)
      rw [readReg_of_idle_ne hb hr]
  · have hc : regAt off ≠ .cmd := fun hr => hcmd v (by rw [(regAt_eq_iff (by decide)).1 hr]; rfl)
    have he : regAt off ≠ .errFlags := fun hr => herr v (by rw [(regAt_eq_iff (by decide)).1 hr]; rfl)
    rw [writeReg_ignored v s hc he]

end Sys2Proof.Machine

namespace Sys2Proof.Proofs

open Sys2Proof.Machine

/-- Settles O39: the three identification registers read the same whether busy or idle. -/
theorem identificationRegistersAreConstant : Obligations.IdentificationRegistersAreConstant :=
  fun _ _ => ⟨fun h => step_of_identification (r := .id) h (by decide),
    fun h => step_of_identification (r := .version) h (by decide),
    fun h => step_of_identification (r := .config) h (by decide)⟩

/-- Settles O40: the read shows `statusWord`, whose fields are read off one by one. -/
theorem statusShowsItsFields : Obligations.StatusShowsItsFields := by
  intro s rest hturn hidle
  obtain ⟨hbusy, hphase, hzero3, herr, haccN, hzero11, hnonempty, hfull, hzero14, hcount⟩ := statusWord_fields s
  refine ⟨statusWord s, step_of_idle_read hturn (by decide) (by decide) hidle (by decide), ?_, ?_, hzero3, herr, haccN,
    hzero11, ?_, ?_, hzero14, hcount⟩
  · rw [hbusy, hidle]
    rfl
  · rw [hphase]
    cases s.phase <;> rfl
  · rw [getLsbD_of_extractLsb' hnonempty, outNonempty, decide_eq_true_eq]
  · rw [getLsbD_of_extractLsb' hfull, outFull, decide_eq_true_eq]

/-- Settles O41, register by register. -/
theorem countAndResultRegistersRead : Obligations.CountAndResultRegistersRead := by
  intro s off rest hturn hidle
  refine ⟨?_, ?_, ?_, ?_, ?_, ?_, ?_, ?_⟩
  case refine_7 =>
    rintro rfl
    exact ⟨_, step_of_idle_read hturn (by decide) (by decide) hidle (by decide), rfl⟩
  case refine_8 =>
    rintro rfl
    exact ⟨_, step_of_idle_read hturn (by decide) (by decide) hidle (by decide), rfl⟩
  all_goals
    rintro rfl
    exact step_of_idle_read hturn (by decide) (by decide) hidle (by decide)

/-- Settles O42: the three reads show composed words, whose fields are read off. -/
theorem errorAndTreeRegistersRead : Obligations.ErrorAndTreeRegistersRead := by
  intro s off rest hturn hidle
  refine ⟨?_, ?_, ?_⟩
  · rintro rfl
    exact ⟨errFlagsWord s, step_of_idle_read hturn (by decide) (by decide) hidle (by decide), errFlagsWord_fields s⟩
  · rintro rfl
    obtain ⟨hcount, hzero10, hroot, hzero25, hvalid⟩ := treeInfoWord_fields s
    refine ⟨treeInfoWord s, step_of_idle_read hturn (by decide) (by decide) hidle (by decide), hcount, hzero10, ?_,
      hzero25, ?_⟩
    · rw [hroot]
      rcases Nat.eq_zero_or_pos s.nnodes with hempty | hpos
      · rw [hempty, if_neg (Nat.lt_irrefl 0), if_pos rfl]
      · rw [if_pos hpos, if_neg hpos.ne']
    · rw [getLsbD_of_extractLsb' hvalid, rootValid, decide_eq_true_eq]
  · rintro rfl
    exact ⟨s.maxlen.setWidth 32, step_of_idle_read hturn (by decide) (by decide) hidle (by decide),
      setWidth_byte_fields s.maxlen⟩

/-- Settles O43: while busy the read is `readBusy`, while idle it pops. -/
theorem outDataReadPopsTheHead : Obligations.OutDataReadPopsTheHead := by
  intro s rest hturn
  have hstep : step s = .next (readReg .outData (dropTurn s)) := step_of_readAt hturn (by decide) (by decide)
  refine ⟨fun hbusy => ?_, fun hidle hempty => ?_, fun hidle b bs hfifo => ?_⟩
  · rw [hstep, readReg_of_busy (s := dropTurn s) hbusy]
    rfl
  · rw [hstep, readReg_of_idle (s := dropTurn s) hidle, readIdle, popOutData_nil (s := dropTurn s) hempty]
    rfl
  · rw [hstep, readReg_of_idle (s := dropTurn s) hidle, readIdle, popOutData_cons (s := dropTurn s) hfifo,
      valid_byte_eq_append]
    rfl

/-- Settles O44: every read while busy is one value and maybe a draw, and the values R66 fixes are `readBusy`'s. -/
theorem readsWhileBusyChangeNothing : Obligations.ReadsWhileBusyChangeNothing := by
  intro s off rest h4 hoff hturn hbusy
  obtain ⟨n, hstep⟩ := step_of_busy_read hturn hoff h4 hbusy
  obtain ⟨hstatus, hzero⟩ := readBusy_value (regAt off) (dropTurn s)
  refine ⟨_, n, hstep, ?_, ?_⟩
  · rintro rfl
    exact hstatus rfl
  · rintro (rfl | rfl | hreserved)
    · exact hzero (.inl rfl)
    · exact hzero (.inr (.inl rfl))
    · exact hzero (.inr (.inr (regAt_of_reserved hreserved)))

/-- Settles O45: CMD and the reserved register hold 0, and only CMD and ERR_FLAGS, each at its one offset, can be
written. -/
theorem reservedReadsZeroAndOtherWritesAreIgnored : Obligations.ReservedReadsZeroAndOtherWritesAreIgnored := by
  intro s off v rest h4 hoff
  refine ⟨fun hturn hidle hoffset => ?_, fun hturn hcmd herr => ?_⟩
  · have hreg : regAt off = .cmd ∨ regAt off = .reserved := by
      rcases hoffset with rfl | hreserved
      · exact .inl rfl
      · exact .inr (regAt_of_reserved hreserved)
    have hstep := step_of_idle_read hturn hoff h4 hidle (by rcases hreg with hr | hr <;> rw [hr] <;> decide)
    rcases hreg with hr | hr <;> rw [hstep, hr] <;> rfl
  · rw [step_of_writeAt hturn hoff h4, writeReg_ignored v (dropTurn s) (mt (regAt_eq_iff (by decide)).1 hcmd)
      (mt (regAt_eq_iff (by decide)).1 herr)]

/-- Settles O46: offset 0x14 is ERR_FLAGS, whose write while idle is `clearErrFlags`. -/
theorem errFlagsAreWriteOneToClear : Obligations.ErrFlagsAreWriteOneToClear := by
  intro s v rest hturn hidle
  have hstep : step s = .next (writeReg .errFlags v (dropTurn s)) := step_of_writeAt hturn (by decide) (by decide)
  rw [hstep, writeReg_errFlags_of_idle (s := dropTurn s) hidle, dropTurn_of_turns hturn]
  exact ⟨_, rfl, rfl, fun k => getLsbD_clearErrFlags v s.errFlags⟩

/-- Settles O49: the frame of any other host access. -/
theorem onlyThreeAccessesChangeTheBlock : Obligations.OnlyThreeAccessesChangeTheBlock := by
  intro s t a rest hturn hstep hcmd herr hout
  rw [step_of_host hturn] at hstep
  have hframe := hostAccess_keeps_block hstep hcmd herr hout
  rwa [dropTurn_of_turns hturn] at hframe

/-- Settles O50: the turn of another master is the refusal. -/
theorem secondMasterIsRefused : Obligations.SecondMasterIsRefused := fun _ _ _ hturn => step_of_turn hturn

/-- Settles O51: the reset's turn is the Reset event. -/
theorem resetDiscardsEverything : Obligations.ResetDiscardsEverything := by
  intro s rest hturn
  rw [step_of_turn hturn]
  simp [takeTurn, resetEvent, hturn]

end Sys2Proof.Proofs
end

section
/-! PROOFS. What no step of any agent does (10_state.md R22, R27, R28, R47 item 9). -/

-- One declaration after another: this keeps the compile of the whole text within its memory.
set_option Elab.async false

namespace Sys2Proof.Machine

theorem nodeResults_frame (n : Node) (s : State) :
    ∃ a b c, nodeResults n s = setResults a b c s := by
  unfold nodeResults
  split
  · exact ⟨_, _, _, rfl⟩
  · exact ⟨_, _, _, rfl⟩

theorem bodyFlush_frame {s s' : State} (h : bodyFlush s = .ok s') :
    s' = { s with acc := s'.acc, accN := s'.accN, ofifo := s'.ofifo, phase := s'.phase } := by
  rcases bodyFlush_ok_cases h with ⟨-, rfl⟩ | ⟨-, -, rfl⟩ <;> rfl

/-- The commands that write RES0 to RES2 (10_state.md R28). -/
theorem exec_changes_results {i : Instr} {s t : State} (h : exec i s = .next t)
    (hne : (t.res0, t.res1, t.res2) ≠ (s.res0, s.res1, s.res2)) :
    t.lastErr = .ok ∧
      (i = .clear ∨ (∃ sym, i = .rdfreq sym) ∨ (∃ idx, i = .rdnode idx) ∨ ∃ sym, i = .lookup sym) := by
  rcases exec_succeeds_or_fails h with ⟨s', hb, rfl⟩ | ⟨e, -, -, rfl⟩
  · refine ⟨rfl, ?_⟩
    rcases bodyOf_ok_cases hb with ⟨-, rfl⟩ | ⟨hi, -⟩ | ⟨_, -, -, rfl⟩ | ⟨sym, hi, -⟩ | ⟨-, rfl⟩ | ⟨idx, n, hi, -, -⟩ |
      ⟨-, -, rfl⟩ | ⟨sym, hi, -⟩ | ⟨_, -, -, -, -, rfl⟩ | ⟨-, hflush⟩
    · exact absurd rfl hne
    · exact .inl hi
    · exact absurd rfl hne
    · exact .inr (.inl ⟨sym, hi⟩)
    · exact absurd rfl hne
    · exact .inr (.inr (.inl ⟨idx, hi⟩))
    · exact absurd rfl hne
    · exact .inr (.inr (.inr ⟨sym, hi⟩))
    · exact absurd rfl hne
    · rw [bodyFlush_frame hflush] at hne
      exact absurd rfl hne
  · exact absurd rfl hne

/-- The commands that write `freq`, `total` and `nsym` (10_state.md R47 item 9). -/
theorem exec_changes_counts {i : Instr} {s t : State} (h : exec i s = .next t)
    (hne : (t.freq, t.total, t.nsym) ≠ (s.freq, s.total, s.nsym)) :
    t.lastErr = .ok ∧ (i = .clear ∨ (s.phase = .hist ∧ ∃ sym, i = .push sym)) := by
  rcases exec_cases h with ⟨-, rfl⟩ | ⟨-, e, -, rfl⟩ | ⟨hl, s', hb, rfl⟩
  · exact absurd rfl hne
  · exact absurd rfl hne
  · refine ⟨rfl, ?_⟩
    have hmem := (legal_iff_mem_legalPhases i s.phase).1 hl
    rcases bodyOf_ok_cases hb with ⟨-, rfl⟩ | ⟨hi, -⟩ | ⟨sym, rfl, -, -⟩ | ⟨_, -, rfl⟩ | ⟨-, rfl⟩ | ⟨_, n, -, -, rfl⟩ |
      ⟨-, -, rfl⟩ | ⟨_, -, hlookup⟩ | ⟨_, -, -, -, -, rfl⟩ | ⟨-, hflush⟩
    · exact absurd rfl hne
    · exact .inl hi
    · exact .inr ⟨List.mem_singleton.1 hmem, sym, rfl⟩
    · exact absurd rfl hne
    · exact absurd rfl hne
    · obtain ⟨a, b, c, hres⟩ := nodeResults_frame n s
      rw [hres] at hne
      exact absurd rfl hne
    · exact absurd rfl hne
    · cases hlookup
      exact absurd rfl hne
    · exact absurd rfl hne
    · rw [bodyFlush_frame hflush] at hne
      exact absurd rfl hne

theorem getLsbD_setErrFlag {e : Code} {flags : BitVec 7} {k : Nat} (h : flags.getLsbD k = true) :
    (setErrFlag e flags).getLsbD k = true := by
  simp [setErrFlag, h]

/-- No command clears a sticky bit. -/
theorem exec_keeps_set_errFlags {i : Instr} {s t : State} {k : Nat} (h : exec i s = .next t)
    (hset : s.errFlags.getLsbD k = true) : t.errFlags.getLsbD k = true := by
  rcases exec_succeeds_or_fails h with ⟨s', hb, rfl⟩ | ⟨e, -, -, rfl⟩
  · obtain ⟨-, herr, -⟩ := bodyOf_frame hb
    rw [succeed_errFlags, herr, hset]
  · exact getLsbD_setErrFlag hset

/-- A write that clears a sticky bit is one of ERR_FLAGS while idle with a 1 in its place (20_memory.md R64). -/
theorem writeReg_clears_errFlags {r : Reg} {v : Word} {s : State} {k : Nat} (hk : 1 ≤ k) (hk' : k ≤ 7)
    (hset : s.errFlags.getLsbD (k - 1) = true) (hclear : (writeReg r v s).errFlags.getLsbD (k - 1) = false) :
    s.busy = false ∧ r = .errFlags ∧ v.getLsbD k = true := by
  cases hb : s.busy with
  | true =>
    rw [writeReg_of_busy hb] at hclear
    split at hclear
    · simp [getLsbD_setErrFlag hset] at hclear
    · simp [hset] at hclear
  | false =>
    cases r with
    | errFlags =>
      rw [writeReg_errFlags_of_idle hb, getLsbD_clearErrFlags v s.errFlags hk hk', hset] at hclear
      exact ⟨rfl, rfl, by simpa using hclear⟩
    | _ => simp [writeReg, hb, issue, hset] at hclear

end Sys2Proof.Machine

namespace Sys2Proof.Proofs

open Sys2Proof.Machine

/-- Settles O52: a host access, an idle turn and an illegal word keep the results; a command that changes them is one
of four (`exec_changes_results`). -/
theorem onlyReadbackWritesTheResults : Obligations.OnlyReadbackWritesTheResults := by
  intro s t hstep hne
  rcases step_cases hstep with ⟨a, rest, -, hacc⟩ | ⟨rest, hturn, -⟩ | ⟨-, -, rfl⟩ | ⟨-, w, -, -, rfl⟩ |
    ⟨heng, w, i, u, hw, hdec, hexec, rfl⟩
  · rw [hostAccess_frame hacc] at hne
    exact absurd rfl hne
  · exact .inl (by rw [hturn]; rfl)
  · exact absurd rfl hne
  · exact absurd rfl hne
  · obtain ⟨hok, hcommand⟩ := exec_changes_results hexec hne
    exact .inr ⟨heng, hok, w, i, hw, hdec, hcommand⟩

/-- Settles O53: likewise, with `exec_changes_counts`. -/
theorem onlyPushCounts : Obligations.OnlyPushCounts := by
  intro s t hstep hne
  rcases step_cases hstep with ⟨a, rest, -, hacc⟩ | ⟨rest, hturn, -⟩ | ⟨-, -, rfl⟩ | ⟨-, w, -, -, rfl⟩ |
    ⟨heng, w, i, u, hw, hdec, hexec, rfl⟩
  · rw [hostAccess_frame hacc] at hne
    exact absurd rfl hne
  · exact .inl (by rw [hturn]; rfl)
  · exact absurd rfl hne
  · exact absurd rfl hne
  · obtain ⟨hok, hcommand⟩ := exec_changes_counts hexec hne
    refine .inr ⟨heng, hok, w, hw, ?_⟩
    rcases hcommand with rfl | ⟨hphase, sym, rfl⟩
    · exact .inl hdec
    · exact .inr ⟨hphase, sym, hdec⟩

/-- Settles O54: reads and completions clear no sticky bit, and a write that does is one of ERR_FLAGS. -/
theorem stickyBitsAreClearedByTheHostOnly : Obligations.StickyBitsAreClearedByTheHostOnly := by
  intro s t k hstep hk hk' hset hclear
  rcases step_cases hstep with ⟨a, rest, hturn, hacc⟩ | ⟨rest, hturn, -⟩ | ⟨-, -, rfl⟩ | ⟨-, w, -, -, rfl⟩ |
    ⟨-, w, i, u, -, -, hexec, rfl⟩
  · obtain ⟨off, -, -, ⟨-, rfl⟩ | ⟨v, rfl, rfl⟩⟩ := hostAccess_cases hacc
    · rw [readReg_frame] at hclear
      simp [hset] at hclear
    · obtain ⟨hidle, hreg, hone⟩ := writeReg_clears_errFlags (s := dropTurn s) hk hk' hset hclear
      refine .inr ⟨hidle, v, ?_, hone⟩
      rw [hturn, (regAt_eq_iff (by decide)).1 hreg]
      rfl
  · exact .inl (by rw [hturn]; rfl)
  · simp [hset] at hclear
  · simp [getLsbD_setErrFlag hset] at hclear
  · simp [exec_keeps_set_errFlags (s := dropTurn s) hexec hset] at hclear

/-- Settles O55: no agent's step writes the parameters. -/
theorem parametersNeverChange : Obligations.ParametersNeverChange := by
  intro s t hstep
  rcases step_cases hstep with ⟨a, rest, -, hacc⟩ | ⟨rest, -, rfl⟩ | ⟨-, -, rfl⟩ | ⟨-, w, -, -, rfl⟩ |
    ⟨-, w, i, u, -, -, hexec, rfl⟩
  · rw [hostAccess_frame hacc]
    rfl
  · rfl
  · rfl
  · rfl
  · obtain ⟨-, hparams, -⟩ := exec_frame hexec
    exact hparams

end Sys2Proof.Proofs
end

section
/-! PROOFS. Runs of the host's programs: a command as a statement, and DRAIN (30_encoding.md R98). -/

-- One declaration after another: this keeps the compile of the whole text within its memory.
set_option Elab.async false

namespace Sys2Proof.Machine

theorem run_succ {s t : State} (h : step s = .next t) (k : Nat) : core.run (k + 1) s = core.run k t := by
  simp only [Host.Core.run, core, h]

/-- The fields no command reads: the pending word and those of the model's own that every command keeps. -/
def withOwn (q : Option Word) (ts : List Turn) (r : Word) (d : Nat) (s : State) : State :=
  { s with cmdq := q, turns := ts, rdata := r, draws := d }

/-- A command's body neither reads nor writes these fields, error by error and write by write. -/
theorem bodyOf_withOwn (q : Option Word) (ts : List Turn) (r : Word) (d : Nat) (i : Instr) (s : State) :
    bodyOf i (withOwn q ts r d s) = (bodyOf i s).map (withOwn q ts r d) := by
  have herr (e : Code) (h : bodyOf i (withOwn q ts r d s) = .error e) (h' : bodyOf i s = .error e) :
      bodyOf i (withOwn q ts r d s) = (bodyOf i s).map (withOwn q ts r d) := h.trans (by rw [h']; rfl)
  have hok (u : State) (h : bodyOf i (withOwn q ts r d s) = .ok (withOwn q ts r d u)) (h' : bodyOf i s = .ok u) :
      bodyOf i (withOwn q ts r d s) = (bodyOf i s).map (withOwn q ts r d) := h.trans (by rw [h']; rfl)
  cases i with
  | nop => rfl
  | clear => rfl
  | push sym =>
    by_cases hfull : s.total = 0xFFFFFFFF#32
    · exact herr .capacity (if_pos hfull) (if_pos hfull)
    · exact hok (countSymbol sym s) (if_neg hfull) (if_neg hfull)
  | rdfreq sym => rfl
  | build => rfl
  | rdnode idx =>
    have hread : readNode (withOwn q ts r d s) idx = readNode s idx := rfl
    cases hn : readNode s idx with
    | none => exact herr .range (by simp only [bodyOf, bodyRdnode, hread, hn]) (by simp only [bodyOf, bodyRdnode, hn])
    | some n =>
      refine hok (nodeResults n s) ?_ (by simp only [bodyOf, bodyRdnode, hn])
      simp only [bodyOf, bodyRdnode, hread, hn, nodeResults]
      split <;> rfl
  | canon =>
    by_cases hwide : codeWidth < s.maxlen.toNat
    · exact herr .capacity (if_pos hwide) (if_pos hwide)
    · exact hok { s with code := canonicalCodes s.len s.maxlen.toNat, phase := .codes } (if_neg hwide) (if_neg hwide)
  | lookup sym => rfl
  | enc sym =>
    by_cases hnone : readSym s.len sym = 0#8
    · exact herr .noCode (if_pos hnone) (if_pos hnone)
    · by_cases hlimit : s.encCount = 0xFFFFFFFF#32
      · exact herr .capacity ((if_neg hnone).trans (if_pos hlimit)) ((if_neg hnone).trans (if_pos hlimit))
      · by_cases hfull : fifoSpace s < bytesNeeded sym s
        · exact herr .oFull ((if_neg hnone).trans ((if_neg hlimit).trans (if_pos hfull)))
            ((if_neg hnone).trans ((if_neg hlimit).trans (if_pos hfull)))
        · exact hok (encodeSymbol sym s) ((if_neg hnone).trans ((if_neg hlimit).trans (if_neg hfull)))
            ((if_neg hnone).trans ((if_neg hlimit).trans (if_neg hfull)))
  | flush =>
    by_cases hpos : 0 < s.accN.toNat
    · by_cases hfull : s.ofifo.length = s.params.ofifoDepth.toNat
      · exact herr .oFull ((if_pos hpos).trans (if_pos hfull)) ((if_pos hpos).trans (if_pos hfull))
      · exact hok { pushOut [flushByte s] s with acc := 0#7, accN := 0#3, phase := .done }
          ((if_pos hpos).trans (if_neg hfull)) ((if_pos hpos).trans (if_neg hfull))
    · exact hok { s with phase := .done } (if_neg hpos) (if_neg hpos)

/-- A command does the same whatever these fields hold. -/
theorem exec_withOwn {i : Instr} {s t : State} (h : exec i s = .next t) (q : Option Word) (ts : List Turn) (r : Word)
    (d : Nat) : exec i (withOwn q ts r d s) = .next (withOwn q ts r d t) := by
  rcases exec_cases h with ⟨hl, rfl⟩ | ⟨hl, e, he, rfl⟩ | ⟨hl, s', hb, rfl⟩
  · exact exec_of_illegal hl
  · exact exec_of_error hl (by rw [bodyOf_withOwn, he]; rfl)
  · exact exec_of_ok (s := withOwn q ts r d s) (s' := withOwn q ts r d s') hl (by rw [bodyOf_withOwn, hb]; rfl)

/-- Polls of STATUS while a command is pending leave the block as it is (30_encoding.md R98). -/
theorem run_busy_polls (polls : Nat) {s : State} {rest : List Turn} (hbusy : s.busy = true)
    (hturns : s.turns = List.replicate polls (rd s.params .status) ++ rest) :
    ∃ r d, ∀ k, core.run (polls + k) s = core.run k (withOwn s.cmdq rest r d s) := by
  induction polls generalizing s with
  | zero =>
    refine ⟨s.rdata, s.draws, fun k => ?_⟩
    rw [Nat.zero_add, ← hturns.trans (List.nil_append rest)]
    rfl
  | succ polls ih =>
    rw [List.replicate_succ, List.cons_append] at hturns
    obtain ⟨n, hstep⟩ := step_of_busy_read hturns (by decide) (by decide) hbusy
    obtain ⟨r, d, hrun⟩ := ih (s := { afterRead (readBusy .status (dropTurn s)).1 s with draws := n }) hbusy
      (congrArg List.tail hturns)
    refine ⟨r, d, fun k => ?_⟩
    rw [Nat.add_right_comm, run_succ hstep]
    exact hrun k

/-- STATUS read while idle has bit 0 = 0. -/
theorem statusWord_bit_zero_of_idle {s : State} (h : s.busy = false) : (statusWord s).getLsbD 0 = false := by
  obtain ⟨hbusy, -⟩ := statusWord_fields s
  rw [getLsbD_of_extractLsb' hbusy, h]

/-- The wait for a pending command: polls, the completion, and the poll that finds the block idle. -/
theorem run_wait {s t : State} {w : Word} {i : Instr} (polls : Nat) {rest : List Turn} (hw : s.cmdq = some w)
    (hd : decode w = .command i) (hturns : s.turns = waitTurns s.params polls ++ rest)
    (hexec : exec i (withOwn none rest 0#32 0 s) = .next t) :
    ∃ r d, r.getLsbD 0 = false ∧ core.run (polls + 2) s = .next (withOwn none rest r d t) := by
  rw [waitTurns, List.append_assoc] at hturns
  obtain ⟨r, d, hpolls⟩ := run_busy_polls polls (busy_eq_true.2 ⟨w, hw⟩) hturns
  have hdone : exec i (dropTurn (withOwn s.cmdq ([.engine, rd s.params .status] ++ rest) r d s)) =
      .next (withOwn s.cmdq (rd s.params .status :: rest) r d t) :=
    exec_withOwn hexec s.cmdq (rd s.params .status :: rest) r d
  have hcomplete := step_of_command (s := withOwn s.cmdq ([.engine, rd s.params .status] ++ rest) r d s) rfl hw hd
  rw [hdone, onNext_next] at hcomplete
  obtain ⟨-, hparams, -⟩ := exec_frame hexec
  have hread : (idle (withOwn s.cmdq (rd s.params .status :: rest) r d t)).turns = rd t.params .status :: rest :=
    congrArg (fun p => rd p .status :: rest) hparams.symm
  have hpoll := step_of_idle_read hread (by decide) (by decide) rfl (by decide)
  exact ⟨_, d, statusWord_bit_zero_of_idle rfl, (hpolls 2).trans ((run_succ hcomplete 1).trans (run_succ hpoll 0))⟩

/-- DRAIN, by the bytes in the FIFO: each read takes one, and the last finds none (30_encoding.md R98). -/
theorem run_drain {s : State} {fifo : List Byte} {rest : List Turn} (hidle : s.busy = false) (hfifo : s.ofifo = fifo)
    (hturns : s.turns = drainTurns s.params fifo.length ++ rest) :
    core.run (fifo.length + 1) s =
      .next { s with turns := rest, ofifo := [], payload := s.payload ++ fifo, rdata := 0#32 } := by
  induction fifo generalizing s with
  | nil =>
    have hread : s.turns = rd s.params .outData :: rest := hturns
    obtain ⟨-, hnone, -⟩ := Proofs.outDataReadPopsTheHead s rest hread
    have hstep := hnone hidle hfifo
    rw [afterRead, dropTurn_of_turns hread] at hstep
    refine (run_succ hstep 0).trans ?_
    rw [List.append_nil, ← hfifo]
    rfl
  | cons b bs ih =>
    have hread : s.turns = rd s.params .outData :: (drainTurns s.params bs.length ++ rest) := hturns
    obtain ⟨-, -, hpop⟩ := Proofs.outDataReadPopsTheHead s _ hread
    have hrest := ih (s := { afterRead (0#23 ++ 1#1 ++ b) s with ofifo := bs, payload := s.payload ++ [b] }) hidle rfl
      (congrArg List.tail hread)
    rw [List.append_assoc] at hrest
    exact (run_succ (hpop hidle b bs hfifo) (bs.length + 1)).trans hrest

end Sys2Proof.Machine

namespace Sys2Proof.Proofs

open Sys2Proof.Machine

/-- Settles O59: the CMD write issues the command's encoding, and the wait completes it (`run_wait`). -/
theorem commandStatementEndsIdle : Obligations.CommandStatementEndsIdle := by
  intro s t i polls rest hidle hturns hexec
  have hwrite : s.turns = wr s.params .cmd (encode i) :: (waitTurns s.params polls ++ rest) := hturns
  have hissue : step s = .next (issue (encode i) (dropTurn s)) := by
    rw [← writeReg_cmd_of_idle (s := dropTurn s) hidle]
    exact step_of_writeAt hwrite (by decide) (by decide)
  obtain ⟨-, -, rfl, -⟩ := exec_frame hexec
  obtain ⟨r, d, hbit, hrun⟩ := run_wait (s := issue (encode i) (dropTurn s)) polls rfl (decode_encode i)
    (congrArg List.tail hwrite) (exec_withOwn hexec none t.turns 0#32 0)
  exact ⟨r, d, hbit, (run_succ hissue (polls + 2)).trans hrun⟩

/-- Settles O60: the drain of the FIFO the state holds. -/
theorem drainReadsTheFifoInOrder : Obligations.DrainReadsTheFifoInOrder :=
  fun _ _ hidle hturns => run_drain hidle rfl hturns

end Sys2Proof.Proofs
end

section
/-! PROOFS. The bit stream through the packer (44_lookup_encode.md R172 to R178). -/

-- One declaration after another: this keeps the compile of the whole text within its memory.
set_option Elab.async false

namespace Sys2Proof.Machine

/-- The low `n` bits of a number, most significant first: what `byteBits`, `codeBits` and `pendingBits` are. -/
def bitsOf (v n : Nat) : List Bool := (List.range n).map fun j => v.testBit (n - 1 - j)

theorem byteBits_eq_bitsOf (b : Byte) : byteBits b = bitsOf b.toNat 8 := rfl

theorem codeBits_eq_bitsOf (c : DWord) (l : Nat) : codeBits c l = bitsOf c.toNat l := rfl

theorem pendingBits_eq_bitsOf (s : State) : pendingBits s = bitsOf s.acc.toNat s.accN.toNat := rfl

@[simp] theorem length_bitsOf (v n : Nat) : (bitsOf v n).length = n := by simp [bitsOf]

theorem bitsOf_mod (v n : Nat) : bitsOf (v % 2 ^ n) n = bitsOf v n := by
  refine List.map_congr_left fun j hj => ?_
  have hlt : n - 1 - j < n := by have := List.mem_range.1 hj; omega
  simp [Nat.testBit_mod_two_pow, hlt]

/-- The high bits stand before the low bits. -/
theorem bitsOf_append (v a b : Nat) : bitsOf v (a + b) = bitsOf (v / 2 ^ b) a ++ bitsOf v b := by
  simp only [bitsOf, List.range_add, List.map_append, List.map_map]
  congr 1
  · refine List.map_congr_left fun j hj => ?_
    have hj := List.mem_range.1 hj
    rw [Nat.testBit_div_two_pow, show a - 1 - j + b = a + b - 1 - j by omega]
  · refine List.map_congr_left fun j _ => ?_
    simp only [Function.comp_apply, show a + b - 1 - (a + j) = b - 1 - j by omega]

theorem bitsOf_shiftLeft_self (v n : Nat) : bitsOf (v <<< n) n = List.replicate n false := by
  refine List.eq_replicate_iff.2 ⟨length_bitsOf _ _, fun b hb => ?_⟩
  obtain ⟨j, hj, rfl⟩ := List.mem_map.1 hb
  have hlt : ¬ n ≤ n - 1 - j := by have := List.mem_range.1 hj; omega
  simp [Nat.testBit_shiftLeft, hlt]

theorem byteBits_ofNat (v : Nat) : byteBits (BitVec.ofNat 8 v) = bitsOf v 8 := by
  rw [byteBits_eq_bitsOf, BitVec.toNat_ofNat, bitsOf_mod]

/-- The first `k` whole bytes of `t` bits are their first `8 * k` bits. -/
theorem flatMap_byteBits_shiftRight (v t k : Nat) (h : 8 * k ≤ t) :
    ((List.range k).map fun i => BitVec.ofNat 8 (v >>> (t - 8 * (i + 1)))).flatMap byteBits =
      bitsOf (v >>> (t - 8 * k)) (8 * k) := by
  induction k with
  | zero => rfl
  | succ k ih =>
    have hshift : v >>> (t - (8 * k + 8)) / 2 ^ 8 = v >>> (t - 8 * k) := by
      rw [← Nat.shiftRight_eq_div_pow, ← Nat.shiftRight_add, show t - (8 * k + 8) + 8 = t - 8 * k by omega]
    rw [List.range_succ, List.map_append, List.flatMap_append, ih (by omega), Nat.mul_succ, bitsOf_append, hshift]
    simp [byteBits_ofNat, Nat.mul_succ]

/-- `Pack` loses no bit and adds none: the pending bits, then the code's (44_lookup_encode.md R172). -/
theorem pack_bits (acc accN c l : Nat) :
    (pack acc accN c l).bytes.flatMap byteBits ++ bitsOf (pack acc accN c l).acc (pack acc accN c l).accN =
      bitsOf acc accN ++ bitsOf c l := by
  have hc : c % 2 ^ l < 2 ^ l := Nat.mod_lt _ (Nat.two_pow_pos l)
  have hhigh : (acc * 2 ^ l + c % 2 ^ l) / 2 ^ l = acc := by
    rw [Nat.mul_comm, Nat.mul_add_div (Nat.two_pow_pos l), Nat.div_eq_of_lt hc, Nat.add_zero]
  have hlow : bitsOf (acc * 2 ^ l + c % 2 ^ l) l = bitsOf c l := by
    rw [← bitsOf_mod, Nat.mul_comm, Nat.mul_add_mod, Nat.mod_mod, bitsOf_mod]
  calc (pack acc accN c l).bytes.flatMap byteBits ++ bitsOf (pack acc accN c l).acc (pack acc accN c l).accN
      = bitsOf ((acc * 2 ^ l + c % 2 ^ l) / 2 ^ ((accN + l) % 8)) (8 * ((accN + l) / 8)) ++
          bitsOf (acc * 2 ^ l + c % 2 ^ l) ((accN + l) % 8) := by
        simp only [pack]
        rw [flatMap_byteBits_shiftRight _ _ _ (Nat.mul_div_le _ _), Nat.shiftRight_eq_div_pow, bitsOf_mod,
          show accN + l - 8 * ((accN + l) / 8) = (accN + l) % 8 by omega]
    _ = bitsOf (acc * 2 ^ l + c % 2 ^ l) (accN + l) := by rw [← bitsOf_append, Nat.div_add_mod]
    _ = bitsOf acc accN ++ bitsOf c l := by rw [bitsOf_append, hhigh, hlow]

/-- ENC appends its code's bits to the stream (44_lookup_encode.md R176). -/
theorem stream_encodeSymbol (sym : Byte) (s : State) :
    stream (encodeSymbol sym s) = stream s ++ symbolBits s.len s.code sym := by
  have hpack := pack_bits s.acc.toNat s.accN.toNat (readSym s.code sym).toNat (readSym s.len sym).toNat
  rw [stream, pendingBits_eq_bitsOf, encodeSymbol_acc_toNat, encodeSymbol_accN_toNat, emitted_encodeSymbol,
    List.flatMap_append, List.append_assoc, stream, pendingBits_eq_bitsOf, symbolBits, codeBits_eq_bitsOf,
    List.append_assoc]
  exact congrArg _ hpack

/-- The byte FLUSH emits is the pending bits and zeros (44_lookup_encode.md R174). -/
theorem byteBits_flushByte (s : State) :
    byteBits (flushByte s) = pendingBits s ++ List.replicate (8 - s.accN.toNat) false := by
  have haccN := s.accN.isLt
  have hhigh : s.acc.toNat <<< (8 - s.accN.toNat) / 2 ^ (8 - s.accN.toNat) = s.acc.toNat := by
    rw [Nat.shiftLeft_eq, Nat.mul_div_cancel _ (Nat.two_pow_pos _)]
  have hbits := bitsOf_append (s.acc.toNat <<< (8 - s.accN.toNat)) s.accN.toNat (8 - s.accN.toNat)
  rw [Nat.add_sub_cancel' (by omega), hhigh, bitsOf_shiftLeft_self] at hbits
  rw [flushByte, byteBits_ofNat, hbits, pendingBits_eq_bitsOf]

theorem stream_flush (s : State) :
    stream { pushOut [flushByte s] s with acc := 0#7, accN := 0#3, phase := .done } =
      stream s ++ List.replicate (8 - s.accN.toNat) false := by
  change (emitted (pushOut [flushByte s] s)).flatMap byteBits ++ [] = _
  rw [emitted_pushOut, List.append_nil, List.flatMap_append, List.flatMap_singleton, byteBits_flushByte, stream,
    List.append_assoc]

/-- The state after `n` reads of OUT_DATA, as an encode pass drains it. -/
def popBytes (n : Nat) (s : State) : State := (fun u => (popOutData u).2)^[n] s

theorem popBytes_succ (n : Nat) (s : State) : popBytes (n + 1) s = (popOutData (popBytes n s)).2 :=
  Function.iterate_succ_apply' ..

theorem emitted_popBytes (n : Nat) (s : State) : emitted (popBytes n s) = emitted s := by
  induction n with
  | zero => rfl
  | succ n ih => rw [popBytes_succ, emitted_popOutData, ih]

/-- Reads of OUT_DATA move bytes to the host and nothing else. -/
theorem popBytes_frame (n : Nat) (s : State) :
    popBytes n s = { s with ofifo := (popBytes n s).ofifo, payload := (popBytes n s).payload } := by
  induction n with
  | zero => rfl
  | succ n ih =>
    rw [popBytes_succ]
    generalize popBytes n s = u at ih
    cases hf : u.ofifo with
    | nil => simp only [popOutData_nil hf, ← ih]
    | cons b bs => rw [popOutData_cons hf, ih]

theorem exec_enc_ok {s t : State} {sym : Byte} (h : exec (.enc sym) s = .next t) (hok : t.lastErr = .ok) :
    t = succeed (encodeSymbol sym s) := by
  rcases exec_succeeds_or_fails h with ⟨s', hb, rfl⟩ | ⟨e, hne, -, rfl⟩
  · obtain ⟨_, heq, -, -, -, rfl⟩ : ∃ x, Instr.enc sym = .enc x ∧ readSym s.len x ≠ 0#8 ∧ s.encCount ≠ 0xFFFFFFFF#32 ∧
        bytesNeeded x s ≤ fifoSpace s ∧ s' = encodeSymbol x s := by simpa using bodyOf_ok_cases hb
    cases heq
    rfl
  · exact absurd hok hne

/-- The first symbol of an encode pass, and the pass over the others from the state it leaves. -/
theorem encodePass_cons {sym : Byte} {pops : Nat} {rest : List (Byte × Nat)} {s t : State}
    (h : encodePass ((sym, pops) :: rest) s = some t) :
    encodePass rest (popBytes pops (succeed (encodeSymbol sym s))) = some t := by
  rw [encodePass] at h
  obtain ⟨u, hu⟩ := exec_goes_on (.enc sym) s
  rw [hu] at h
  by_cases hok : u.lastErr = .ok
  · simp only [exec_enc_ok hu hok, succeed_lastErr, if_true] at h
    exact h
  · simp only [if_neg hok, reduceCtorEq] at h

end Sys2Proof.Machine

namespace Sys2Proof.Proofs

open Sys2Proof.Machine

/-- Settles O33: `stream_encodeSymbol` for the ENC that passes its checks. -/
theorem encAppendsTheCodeToTheStream : Obligations.EncAppendsTheCodeToTheStream := by
  intro s sym hphase hcode hcount hroom
  have hbody : bodyOf (.enc sym) s = .ok (encodeSymbol sym s) :=
    (if_neg hcode).trans ((if_neg hcount).trans (if_neg (Nat.not_lt.2 hroom)))
  exact ⟨_, _, exec_of_ok (by rw [hphase]; rfl) hbody, rfl, length_pack_bytes _ _ _ _, encodeSymbol_accN_toNat sym s,
    encodeSymbol_acc_lt sym s, stream_encodeSymbol sym s⟩

/-- Settles O36, exit by exit of FLUSH's body. -/
theorem flushPadsAndEndsTheStream : Obligations.FlushPadsAndEndsTheStream := by
  intro s hphase
  have hl : legal .flush s.phase = true := by rw [hphase]; rfl
  have hpos : s.accN ≠ 0#3 → 0 < s.accN.toNat := fun h => by bv_omega
  refine ⟨fun hzero => ?_, fun hpartial hroom => ?_, fun hpartial hfull => ?_⟩
  · have hnone : ¬ 0 < s.accN.toNat := by rw [hzero]; decide
    exact exec_of_ok (i := .flush) (s' := { s with phase := .done }) hl (if_neg hnone)
  · exact ⟨_, flushByte s, exec_of_ok (i := .flush) hl ((if_pos (hpos hpartial)).trans (if_neg hroom)), rfl,
      stream_flush s⟩
  · exact exec_of_error (i := .flush) hl ((if_pos (hpos hpartial)).trans (if_pos hfull))

/-- Settles O37, by induction on the symbols: each ENC appends its code, and draining keeps the stream. -/
theorem encodePassAppendsEveryCode : Obligations.EncodePassAppendsEveryCode := by
  intro xs
  induction xs with
  | nil =>
    rintro s t h
    obtain rfl : s = t := by simpa [encodePass] using h
    simp
  | cons x rest ih =>
    obtain ⟨sym, pops⟩ := x
    intro s t h
    have hframe := popBytes_frame pops (succeed (encodeSymbol sym s))
    have hemitted := emitted_popBytes pops (succeed (encodeSymbol sym s))
    have hpass := ih _ t (encodePass_cons h)
    generalize popBytes pops (succeed (encodeSymbol sym s)) = u at hframe hemitted hpass
    have hstream : stream u = stream s ++ symbolBits s.len s.code sym := by
      rw [← stream_encodeSymbol, stream, hemitted, hframe]
      rfl
    have hlen : u.len = s.len := by rw [hframe]; rfl
    have hcode : u.code = s.code := by rw [hframe]; rfl
    have hfreq : u.freq = s.freq := by rw [hframe]; rfl
    have hbits : u.outBits = s.outBits + (readSym s.len sym).setWidth 64 := by rw [hframe]; rfl
    have hcount : u.encCount = s.encCount + 1#32 := by rw [hframe]; rfl
    rw [hstream, hlen, hcode, hfreq, hbits, hcount] at hpass
    obtain ⟨hstream', hbits', hcount', hlen', hcode', hfreq'⟩ := hpass
    refine ⟨?_, ?_, ?_, hlen', hcode', hfreq'⟩
    · rw [hstream', List.append_assoc]
      rfl
    · rw [hbits', List.map_cons, List.sum_cons, BitVec.ofNat_add, BitVec.ofNat_toNat, BitVec.add_assoc]
    · rw [hcount', List.length_cons, Nat.add_comm, BitVec.ofNat_add, BitVec.add_assoc]

end Sys2Proof.Proofs
end

section
/-! PROOFS. The merge loop of the tree builder: the order of keys, and what holds of the arena and the priority
structure after every round (42_tree_builder.md R142 to R145, R151). -/

-- One declaration after another: this keeps the compile of the whole text within its memory.
set_option Elab.async false

namespace Sys2Proof.Machine

/-! ### The order of keys -/

theorem before_iff {a b : Key} : a.before b = true ↔ a.w < b.w ∨ (a.w = b.w ∧ a.idx < b.idx) := by
  simp [Key.before]

theorem before_trans {a b c : Key} (hab : a.before b = true) (hbc : b.before c = true) : a.before c = true := by
  rw [before_iff] at *
  bv_omega

theorem before_of_not_before {a b : Key} (hne : a.idx ≠ b.idx) (h : ¬ a.before b = true) : b.before a = true := by
  rw [before_iff] at *
  bv_omega

/-- What is removed comes before all that is left, by the place of the least key: the head or the rest. -/
theorem popLeast_before {ks rest : List Key} {k : Key} (h : popLeast ks = some (k, rest))
    (hnodup : (ks.map Key.idx).Nodup) : ∀ k' ∈ rest, k.before k' = true := by
  induction ks generalizing k rest with
  | nil => simp [popLeast] at h
  | cons x xs ih =>
    rw [List.map_cons, List.nodup_cons] at hnodup
    obtain ⟨hx, hxs⟩ := hnodup
    simp only [popLeast] at h
    split at h
    · simp only [Option.some.injEq, Prod.mk.injEq] at h
      obtain ⟨-, rfl⟩ := h
      simp
    · next m r hm =>
      have hleast := ih hm hxs
      have hperm := perm_of_popLeast hm
      split at h
      · next hxm =>
        simp only [Option.some.injEq, Prod.mk.injEq] at h
        obtain ⟨rfl, rfl⟩ := h
        intro k' hk'
        rcases List.mem_cons.1 (hperm.mem_iff.1 hk') with rfl | hr
        · exact hxm
        · exact before_trans hxm (hleast k' hr)
      · next hxm =>
        simp only [Option.some.injEq, Prod.mk.injEq] at h
        obtain ⟨rfl, rfl⟩ := h
        have hm_mem : m.idx ∈ xs.map Key.idx := List.mem_map_of_mem (hperm.mem_iff.2 List.mem_cons_self)
        intro k' hk'
        rcases List.mem_cons.1 hk' with rfl | hr
        · exact before_of_not_before (fun heq => hx (heq ▸ hm_mem)) hxm
        · exact hleast k' hr

/-! ### The invariant of the merge loop -/

/-- Node `i` of an arena joins two earlier nodes, the lesser key as left child, and both come before every earlier
node that has no parent once node `i` is made (42_tree_builder.md R143, R144). -/
def JoinsLeastKeys (arena : List Node) (i : Nat) (n : Node) : Prop :=
  n.left.toNat < i ∧ n.right.toNat < i ∧
  ∃ l r, arena[n.left.toNat]? = some l ∧ arena[n.right.toNat]? = some r ∧ n.w = l.w + r.w ∧
    (l.w < r.w ∨ (l.w = r.w ∧ n.left.toNat < n.right.toNat)) ∧
    ∀ (j : Nat) (m : Node), j < i → arena[j]? = some m → j ∉ childrenBefore arena (i + 1) →
      r.w < m.w ∨ (r.w = m.w ∧ n.right.toNat < j)

/-- The internal nodes of an arena, in order. -/
def internals (arena : List Node) : List Node := arena.filter fun n => n.kind = .internal

/-- What every round of the merge loop keeps: the leaves stay in front of the internal nodes, an arena entry is a child
of exactly one internal node or has exactly one key, keys carry the weights of their entries, and the weight of the
leaves is conserved at the width of a weight. -/
structure MergeInv (leaves arena : List Node) (active : List Key) : Prop where
  grown : ∃ inner, arena = leaves ++ inner ∧ ∀ m ∈ inner, m.kind = .internal ∧ m.sym = 0#8 ∧ m.depth = 0#8
  size : arena.length + active.length = 2 * leaves.length
  owned : (childrenOf (internals arena) ++ active.map Key.idx).Perm (List.range arena.length)
  weights : ∀ k ∈ active, ∃ m, arena[k.idx]? = some m ∧ m.w = k.w
  joins : ∀ i m, arena[i]? = some m → m.kind = .internal → JoinsLeastKeys arena i m
  conserved : (active.map fun k => k.w.toNat).sum % 2 ^ 32 = (leaves.map fun m => m.w.toNat).sum % 2 ^ 32

theorem internals_append (ms ns : List Node) : internals (ms ++ ns) = internals ms ++ internals ns :=
  List.filter_append ..

theorem internals_of_leaves {leaves : List Node} (h : ∀ m ∈ leaves, m.kind = .leaf) : internals leaves = [] :=
  List.filter_eq_nil_iff.2 fun m hm => by simp [h m hm]

theorem childrenBefore_length (arena : List Node) : childrenBefore arena arena.length = childrenOf (internals arena) :=
  childrenBefore_of_length_le (Nat.le_refl _)

theorem childrenBefore_append (arena ns : List Node) {i : Nat} (h : i ≤ arena.length) :
    childrenBefore (arena ++ ns) i = childrenBefore arena i := by
  rw [childrenBefore, childrenBefore, List.take_append_of_le_length h]

/-- Entries that come later do not matter to a node. -/
theorem joinsLeastKeys_append {arena : List Node} {i : Nat} {n : Node} (h : JoinsLeastKeys arena i n)
    (hi : i < arena.length) (ns : List Node) : JoinsLeastKeys (arena ++ ns) i n := by
  obtain ⟨hleft, hright, l, r, hl, hr, hw, hlr, hrest⟩ := h
  refine ⟨hleft, hright, l, r, ?_, ?_, hw, hlr, fun j m hj hm hchild => ?_⟩
  · rw [List.getElem?_append_left (by omega), hl]
  · rw [List.getElem?_append_left (by omega), hr]
  · rw [List.getElem?_append_left (by omega)] at hm
    rw [childrenBefore_append arena ns (by omega)] at hchild
    exact hrest j m hj hm hchild

section
variable {leaves arena : List Node} {active : List Key}

theorem MergeInv.idx_nodup (h : MergeInv leaves arena active) : (active.map Key.idx).Nodup :=
  (List.nodup_append.1 (h.owned.nodup_iff.2 List.nodup_range)).2.1

theorem MergeInv.idx_lt (h : MergeInv leaves arena active) {k : Key} (hk : k ∈ active) : k.idx < arena.length :=
  List.mem_range.1 (h.owned.mem_iff.1 (List.mem_append_right _ (List.mem_map_of_mem hk)))

/-- Seeding: every leaf has its key and no parent (42_tree_builder.md R141, R142). -/
theorem mergeInv_seed (hleaf : ∀ m ∈ leaves, m.kind = .leaf) : MergeInv leaves leaves (leafKeys leaves) where
  grown := ⟨[], by simp, by simp⟩
  size := by
    rw [length_leafKeys]
    omega
  owned := by
    rw [internals_of_leaves hleaf]
    simp [leafKeys, childrenOf, Function.comp_def, List.range_eq_range']
  weights := by
    intro k hk
    simp only [leafKeys, List.mem_map, Prod.exists, List.mk_mem_zipIdx_iff_getElem?] at hk
    obtain ⟨m, i, hm, rfl⟩ := hk
    exact ⟨m, hm, rfl⟩
  joins := fun i m hm hkind => by simp [hleaf m (List.mem_of_getElem? hm)] at hkind
  conserved := by
    have hmap : (leafKeys leaves).map (fun k => k.w.toNat) = leaves.map fun m => m.w.toNat := by
      conv_rhs => rw [← List.zipIdx_map_fst 0 leaves, List.map_map]
      rw [leafKeys, List.map_map]
      rfl
    rw [hmap]

/-! A round removes the least key `a` and then the least key `b` of what is left. -/

section
variable {a b : Key} {rest₁ rest₂ : List Key}

theorem perm_of_popLeast_two (ha : popLeast active = some (a, rest₁)) (hb : popLeast rest₁ = some (b, rest₂)) :
    active.Perm (a :: b :: rest₂) := (perm_of_popLeast ha).trans ((perm_of_popLeast hb).cons a)

variable (h : MergeInv leaves arena active) (hleaves : leaves.length ≤ 256) (ha : popLeast active = some (a, rest₁))
  (hb : popLeast rest₁ = some (b, rest₂))
include h hleaves ha hb

/-- The children's indices fit 9 bits, for there are at most 511 entries. -/
theorem joinNode_children :
    (joinNode a b).left.toNat = a.idx ∧ (joinNode a b).right.toNat = b.idx ∧ a.idx < arena.length ∧
      b.idx < arena.length := by
  have hperm := perm_of_popLeast_two ha hb
  have hsize := h.size
  rw [hperm.length_eq, List.length_cons, List.length_cons] at hsize
  have haidx := h.idx_lt (hperm.mem_iff.2 (by simp : a ∈ a :: b :: rest₂))
  have hbidx := h.idx_lt (hperm.mem_iff.2 (by simp : b ∈ a :: b :: rest₂))
  exact ⟨Nat.mod_eq_of_lt (by omega), Nat.mod_eq_of_lt (by omega), haidx, hbidx⟩

theorem childrenOf_internals_join :
    childrenOf (internals (arena ++ [joinNode a b])) = childrenOf (internals arena) ++ [a.idx, b.idx] := by
  obtain ⟨hleft, hright, -, -⟩ := joinNode_children h hleaves ha hb
  have hnew : internals [joinNode a b] = [joinNode a b] := rfl
  rw [internals_append, childrenOf_append, hnew]
  simp [childrenOf, hleft, hright]

/-- The new node joins the two least keys: an entry that then has no parent has one of the other keys. -/
theorem joinsLeastKeys_joinNode : JoinsLeastKeys (arena ++ [joinNode a b]) arena.length (joinNode a b) := by
  obtain ⟨hleft, hright, haidx, hbidx⟩ := joinNode_children h hleaves ha hb
  have hperm := perm_of_popLeast_two ha hb
  have hab := popLeast_before ha h.idx_nodup b ((perm_of_popLeast hb).mem_iff.2 List.mem_cons_self)
  have hbrest := popLeast_before hb (((perm_of_popLeast ha).map Key.idx).nodup_iff.1 h.idx_nodup).of_cons
  obtain ⟨l, hl, hlw⟩ := h.weights a (hperm.mem_iff.2 (by simp))
  obtain ⟨r, hr, hrw⟩ := h.weights b (hperm.mem_iff.2 (by simp))
  refine ⟨by omega, by omega, l, r, ?_, ?_, by rw [hlw, hrw]; rfl, ?_, fun j m hj hm hchild => ?_⟩
  · rw [hleft, List.getElem?_append_left haidx, hl]
  · rw [hright, List.getElem?_append_left hbidx, hr]
  · rw [hleft, hright, hlw, hrw]
    exact before_iff.1 hab
  · rw [List.getElem?_append_left hj] at hm
    have hlast : arena.length + 1 = (arena ++ [joinNode a b]).length := by simp
    rw [hlast, childrenBefore_length, childrenOf_internals_join h hleaves ha hb] at hchild
    simp only [List.mem_append, List.mem_cons, List.not_mem_nil, or_false, not_or] at hchild
    obtain ⟨hold, hja, hjb⟩ := hchild
    have hjkey : j ∈ active.map Key.idx :=
      (List.mem_append.1 (h.owned.mem_iff.2 (List.mem_range.2 hj))).resolve_left hold
    obtain ⟨k, hk, rfl⟩ := List.mem_map.1 hjkey
    have hkrest : k ∈ rest₂ := by
      rcases List.mem_cons.1 (hperm.mem_iff.1 hk) with rfl | hk'
      · exact absurd rfl hja
      · exact (List.mem_cons.1 hk').resolve_left fun heq => hjb (congrArg Key.idx heq)
    obtain ⟨m', hm', hw'⟩ := h.weights k hk
    obtain rfl : m' = m := by simpa [hm'] using hm
    rw [hright, hrw, hw']
    exact before_iff.1 (hbrest k hkrest)

/-- A round: the two least keys become the children of a new last entry, whose key replaces theirs
(42_tree_builder.md R143, R144). -/
theorem mergeInv_join :
    MergeInv leaves (arena ++ [joinNode a b]) (rest₂ ++ [{ w := a.w + b.w, idx := arena.length }]) := by
  have hperm := perm_of_popLeast_two ha hb
  exact {
    grown := by
      obtain ⟨inner, harena, hinner⟩ := h.grown
      refine ⟨inner ++ [joinNode a b], by rw [harena, List.append_assoc], fun m hm => ?_⟩
      rcases List.mem_append.1 hm with hm | hm
      · exact hinner m hm
      · rw [List.mem_singleton.1 hm]
        exact ⟨rfl, rfl, rfl⟩
    size := by
      have hsize := h.size
      rw [hperm.length_eq, List.length_cons, List.length_cons] at hsize
      simp only [List.length_append, List.length_singleton]
      omega
    owned := by
      have hidx : (active.map Key.idx).Perm ([a.idx, b.idx] ++ rest₂.map Key.idx) := hperm.map Key.idx
      rw [childrenOf_internals_join h hleaves ha hb, List.map_append, List.length_append, List.length_singleton,
        List.range_succ, List.append_assoc, ← List.append_assoc [a.idx, b.idx], ← List.append_assoc]
      exact (((hidx.symm.append_left _).trans h.owned).append_right [arena.length])
    weights := by
      intro k hk
      rcases List.mem_append.1 hk with hk | hk
      · have hkmem : k ∈ active := hperm.mem_iff.2 (by simp [hk])
        rw [List.getElem?_append_left (h.idx_lt hkmem)]
        exact h.weights k hkmem
      · rw [List.mem_singleton.1 hk]
        exact ⟨joinNode a b, by simp, rfl⟩
    joins := by
      intro i m hm hkind
      by_cases hi : i < arena.length
      · rw [List.getElem?_append_left hi] at hm
        exact joinsLeastKeys_append (h.joins i m hm hkind) hi _
      · obtain ⟨hlt, -⟩ := List.getElem?_eq_some_iff.1 hm
        obtain rfl : i = arena.length := by
          simp only [List.length_append, List.length_singleton] at hlt
          omega
        obtain rfl : joinNode a b = m := by simpa using hm
        exact joinsLeastKeys_joinNode h hleaves ha hb
    conserved := by
      rw [← h.conserved, (hperm.map fun k => k.w.toNat).sum_eq]
      simp only [List.map_append, List.map_cons, List.map_nil, List.sum_append, List.sum_cons, List.sum_nil,
        BitVec.toNat_add]
      omega }

end

/-- Two keys or more give up two. -/
theorem exists_popLeast_two {ks : List Key} (h : 2 ≤ ks.length) :
    ∃ a rest₁ b rest₂, popLeast ks = some (a, rest₁) ∧ popLeast rest₁ = some (b, rest₂) ∧
      ks.length = rest₂.length + 2 := by
  cases ha : popLeast ks with
  | none => simp [popLeast_eq_none.1 ha] at h
  | some p =>
    have hlen₁ := length_of_popLeast ha
    cases hb : popLeast p.2 with
    | none =>
      rw [popLeast_eq_none.1 hb, List.length_nil] at hlen₁
      omega
    | some q =>
      have hlen₂ := length_of_popLeast hb
      exact ⟨p.1, p.2, q.1, q.2, rfl, hb, by omega⟩

theorem mergeLoop_succ {a b : Key} {rest₁ rest₂ : List Key} (fuel : Nat) (ha : popLeast active = some (a, rest₁))
    (hb : popLeast rest₁ = some (b, rest₂)) :
    mergeLoop (fuel + 1) arena active =
      mergeLoop fuel (arena ++ [joinNode a b]) (rest₂ ++ [{ w := a.w + b.w, idx := arena.length }]) := by
  simp only [mergeLoop, ha, hb]

/-- The loop ends with at most one key, and with one if it began with any. -/
theorem mergeInv_mergeLoop (hleaves : leaves.length ≤ 256) (fuel : Nat) (h : MergeInv leaves arena active)
    (hfuel : active.length ≤ fuel + 1) :
    ∃ left, MergeInv leaves (mergeLoop fuel arena active) left ∧ left.length = min 1 active.length := by
  induction fuel generalizing arena active with
  | zero =>
    rw [mergeLoop_stops 0 arena active hfuel]
    exact ⟨active, h, by omega⟩
  | succ fuel ih =>
    by_cases hshort : active.length ≤ 1
    · rw [mergeLoop_stops (fuel + 1) arena active hshort]
      exact ⟨active, h, by omega⟩
    · obtain ⟨a, rest₁, b, rest₂, ha, hb, hlen⟩ := exists_popLeast_two (Nat.lt_of_not_le hshort)
      rw [mergeLoop_succ fuel ha hb]
      obtain ⟨left, hleft, hcount⟩ := ih (mergeInv_join h hleaves ha hb)
        (by simp only [List.length_append, List.length_singleton]; omega)
      refine ⟨left, hleft, ?_⟩
      simp only [List.length_append, List.length_singleton] at hcount
      omega

end

end Sys2Proof.Machine

namespace Sys2Proof.Proofs

open Sys2Proof.Machine

/-- Settles O20: the removed key and the rest are the structure, and it comes before the rest (`popLeast_before`). -/
theorem removedKeyIsTheLeast : Obligations.RemovedKeyIsTheLeast :=
  fun _ _ _ h hnodup => ⟨perm_of_popLeast h, fun k' hk' => before_iff.1 (popLeast_before h hnodup k' hk')⟩

end Sys2Proof.Proofs
end

section
/-! PROOFS. The arena BUILD leaves: its size, its leaves, its root and who owns whom (42_tree_builder.md R141 to R145,
R151). -/

-- One declaration after another: this keeps the compile of the whole text within its memory.
set_option Elab.async false

namespace Sys2Proof.Machine

/-- The part of a sum that a filter keeps. -/
theorem sum_map_filter {α : Type} (l : List α) (p : α → Bool) (f : α → Nat) :
    ((l.filter p).map f).sum = (l.map fun x => if p x then f x else 0).sum := by
  induction l with
  | nil => rfl
  | cons x l ih =>
    rw [List.filter_cons]
    split <;> simp_all

/-! ### The merged arena -/

theorem seedLeaves_fields {freq : Table Word} {m : Node} (h : m ∈ seedLeaves freq) :
    m.kind = .leaf ∧ m.depth = 0#8 := by
  rw [seedLeaves_eq_map, List.mem_map] at h
  obtain ⟨sym, -, rfl⟩ := h
  exact ⟨rfl, rfl⟩

theorem sum_seedLeaves (freq : Table Word) : ((seedLeaves freq).map fun m => m.w.toNat).sum = freqSum freq := by
  rw [seedLeaves_eq_map, List.map_map, alphabet, sum_map_filter, freqSum]
  congr 1
  refine List.map_congr_left fun sym _ => ?_
  by_cases h : readSym freq sym = 0#32
  · simp [h]
  · simp [h, leafNode]

theorem mergedArena_inv (freq : Table Word) :
    ∃ left, MergeInv (seedLeaves freq) (mergedArena freq) left ∧ left.length = min 1 (alphabet freq).length := by
  obtain ⟨left, hinv, hcount⟩ := mergeInv_mergeLoop (by simpa using length_alphabet_le freq) (seedLeaves freq).length
    (mergeInv_seed fun m hm => (seedLeaves_fields hm).1) (by simp)
  exact ⟨left, hinv, by simpa using hcount⟩

theorem length_mergedArena (freq : Table Word) : (mergedArena freq).length = 2 * (alphabet freq).length - 1 := by
  obtain ⟨left, hinv, hcount⟩ := mergedArena_inv freq
  have hsize := hinv.size
  rw [length_seedLeaves] at hsize
  omega

theorem mergedArena_joins {freq : Table Word} {i : Nat} {m : Node} (hm : (mergedArena freq)[i]? = some m)
    (hkind : m.kind = .internal) : JoinsLeastKeys (mergedArena freq) i m := by
  obtain ⟨left, hinv, -⟩ := mergedArena_inv freq
  exact hinv.joins i m hm hkind

theorem mergedArena_eq_append (freq : Table Word) :
    ∃ inner, mergedArena freq = seedLeaves freq ++ inner ∧
      ∀ m ∈ inner, m.kind = .internal ∧ m.sym = 0#8 ∧ m.depth = 0#8 := by
  obtain ⟨left, hinv, -⟩ := mergedArena_inv freq
  exact hinv.grown

theorem mem_childrenOf_internals {arena : List Node} {c : Nat} :
    c ∈ childrenOf (internals arena) ↔
      ∃ (i : Nat) (m : Node), arena[i]? = some m ∧ m.kind = .internal ∧ c ∈ childrenOf [m] := by
  simp only [childrenOf, internals, List.mem_flatMap, List.mem_filter, decide_eq_true_eq, List.flatMap_singleton]
  constructor
  · rintro ⟨m, ⟨hm, hkind⟩, hc⟩
    obtain ⟨i, hi⟩ := List.mem_iff_getElem?.1 hm
    exact ⟨i, m, hi, hkind, hc⟩
  · rintro ⟨i, m, hi, hkind, hc⟩
    exact ⟨m, ⟨List.mem_of_getElem? hi, hkind⟩, hc⟩

theorem JoinsLeastKeys.child_lt {arena : List Node} {i c : Nat} {n : Node} (h : JoinsLeastKeys arena i n)
    (hc : c ∈ childrenOf [n]) : c < i := by
  obtain ⟨hleft, hright, -⟩ := h
  simp only [childrenOf, List.flatMap_singleton, List.mem_cons, List.not_mem_nil, or_false] at hc
  omega

/-- The one key that is left is the last entry's: that entry is no child, as children come before their parents. -/
theorem mergedArena_left {freq : Table Word} {left : List Key}
    (hinv : MergeInv (seedLeaves freq) (mergedArena freq) left) (hcount : left.length = min 1 (alphabet freq).length)
    (hpos : 0 < (mergedArena freq).length) : ∃ k, left = [k] ∧ k.idx = (mergedArena freq).length - 1 := by
  have hlen := length_mergedArena freq
  obtain ⟨k, rfl⟩ := List.length_eq_one_iff.1 (show left.length = 1 by omega)
  refine ⟨k, rfl, ?_⟩
  have hlast : (mergedArena freq).length - 1 ∈ childrenOf (internals (mergedArena freq)) ++ [k].map Key.idx :=
    hinv.owned.mem_iff.2 (List.mem_range.2 (by omega))
  rcases List.mem_append.1 hlast with hchild | hkey
  · obtain ⟨i, m, hm, hkind, hc⟩ := mem_childrenOf_internals.1 hchild
    have hlt := (mergedArena_joins hm hkind).child_lt hc
    obtain ⟨hi, -⟩ := List.getElem?_eq_some_iff.1 hm
    omega
  · simpa using (List.mem_singleton.1 hkey).symm

/-- Every index below the root is the child of exactly one node (42_tree_builder.md R151 item 2). -/
theorem mergedArena_children (freq : Table Word) :
    (childrenOf (internals (mergedArena freq))).Perm (List.range ((mergedArena freq).length - 1)) := by
  obtain ⟨left, hinv, hcount⟩ := mergedArena_inv freq
  rcases Nat.eq_zero_or_pos (mergedArena freq).length with hzero | hpos
  · rw [List.eq_nil_of_length_eq_zero hzero]
    exact List.Perm.refl _
  · obtain ⟨k, rfl, hidx⟩ := mergedArena_left hinv hcount hpos
    have howned := hinv.owned
    have hlast : (mergedArena freq).length = (mergedArena freq).length - 1 + 1 := by omega
    rw [hlast, List.range_succ, List.map_singleton, hidx] at howned
    exact (List.perm_append_right_iff _).1 howned

/-- The root weighs what the leaves weigh, at the width of a weight (42_tree_builder.md R151 item 3). -/
theorem mergedArena_root_weight {freq : Table Word} {m : Node}
    (hm : (mergedArena freq)[(mergedArena freq).length - 1]? = some m) : m.w.toNat = freqSum freq % 2 ^ 32 := by
  obtain ⟨left, hinv, hcount⟩ := mergedArena_inv freq
  obtain ⟨hlt, -⟩ := List.getElem?_eq_some_iff.1 hm
  obtain ⟨k, rfl, hidx⟩ := mergedArena_left hinv hcount (by omega)
  obtain ⟨m', hm', hw⟩ := hinv.weights k (by simp)
  obtain rfl : m' = m := by simpa [hidx, hm] using hm'.symm
  have hsum := hinv.conserved
  rw [sum_seedLeaves] at hsum
  rw [← hsum, hw]
  simpa using (Nat.mod_eq_of_lt k.w.isLt).symm

/-! ### The built arena is the merged one with depths (42_tree_builder.md R146) -/

/-- An entry but for its depth. -/
def eraseDepth (n : Node) : Node := { n with depth := 0#8 }

theorem getElem?_setDepth (arena : List Node) (i j : Nat) (d : Byte) :
    (setDepth arena i d)[j]? = if i = j then arena[j]?.map (fun n => { n with depth := d }) else arena[j]? := by
  rw [setDepth, List.getElem?_modify]
  split <;> simp

theorem map_eraseDepth_setDepth (arena : List Node) (i : Nat) (d : Byte) :
    (setDepth arena i d).map eraseDepth = arena.map eraseDepth := by
  refine List.ext_getElem? fun j => ?_
  rw [List.getElem?_map, List.getElem?_map, getElem?_setDepth]
  split
  · rw [Option.map_map]
    rfl
  · rfl

theorem map_eraseDepth_depthRound (arena : List Node) (i : Nat) :
    (depthRound arena i).map eraseDepth = arena.map eraseDepth := by
  unfold depthRound
  split
  · rfl
  · rw [map_eraseDepth_setDepth, map_eraseDepth_setDepth]

theorem map_eraseDepth_foldl_depthRound (is : List Nat) (arena : List Node) :
    (is.foldl depthRound arena).map eraseDepth = arena.map eraseDepth := by
  induction is generalizing arena with
  | nil => rfl
  | cons i is ih => rw [List.foldl_cons, ih, map_eraseDepth_depthRound]

theorem map_eraseDepth_assignDepths (n : Nat) (arena : List Node) :
    (assignDepths n arena).map eraseDepth = arena.map eraseDepth := by
  unfold assignDepths
  split
  · rw [map_eraseDepth_foldl_depthRound, map_eraseDepth_setDepth]
  · rfl

theorem mergedArena_depth {freq : Table Word} {m : Node} (h : m ∈ mergedArena freq) : m.depth = 0#8 := by
  obtain ⟨inner, happ, hinner⟩ := mergedArena_eq_append freq
  rw [happ] at h
  rcases List.mem_append.1 h with hm | hm
  · exact (seedLeaves_fields hm).2
  · exact (hinner m hm).2.2

theorem map_eraseDepth_mergedArena (freq : Table Word) : (mergedArena freq).map eraseDepth = mergedArena freq := by
  refine (List.map_congr_left fun m hm => ?_).trans (List.map_id _)
  rw [eraseDepth, ← mergedArena_depth hm, id]

/-- An arena is the merged one but for its depths. -/
def HasMergedTree (freq : Table Word) (arena : List Node) : Prop := arena.map eraseDepth = mergedArena freq

theorem hasMergedTree_builtArena (freq : Table Word) : HasMergedTree freq (builtArena freq) := by
  rw [HasMergedTree, builtArena, map_eraseDepth_assignDepths, map_eraseDepth_mergedArena]

theorem childrenOf_map_eraseDepth (ns : List Node) : childrenOf (ns.map eraseDepth) = childrenOf ns := by
  rw [childrenOf, List.flatMap_map]
  rfl

theorem internals_map_eraseDepth (arena : List Node) :
    internals (arena.map eraseDepth) = (internals arena).map eraseDepth := by
  rw [internals, List.filter_map]
  rfl

theorem childrenBefore_map_eraseDepth (arena : List Node) (n : Nat) :
    childrenBefore (arena.map eraseDepth) n = childrenBefore arena n := by
  have hold := internals_map_eraseDepth (arena.take n)
  rw [List.map_take] at hold
  rw [childrenBefore, childrenBefore]
  exact (congrArg childrenOf hold).trans (childrenOf_map_eraseDepth _)

/-- Whom a node joins does not depend on depths. -/
theorem joinsLeastKeys_of_eraseDepth {arena : List Node} {i : Nat} {n : Node}
    (h : JoinsLeastKeys (arena.map eraseDepth) i (eraseDepth n)) : JoinsLeastKeys arena i n := by
  obtain ⟨hleft, hright, l, r, hl, hr, hw, hlr, hrest⟩ := h
  rw [List.getElem?_map, Option.map_eq_some_iff] at hl hr
  obtain ⟨l, hl, rfl⟩ := hl
  obtain ⟨r, hr, rfl⟩ := hr
  refine ⟨hleft, hright, l, r, hl, hr, hw, hlr, fun j m hj hm hchild => ?_⟩
  refine hrest j (eraseDepth m) hj ?_ ?_
  · rw [List.getElem?_map, hm, Option.map_some]
  · rwa [childrenBefore_map_eraseDepth]

namespace HasMergedTree

variable {freq : Table Word} {arena : List Node} (h : HasMergedTree freq arena)
include h

theorem length_eq : arena.length = 2 * (alphabet freq).length - 1 := by
  rw [← length_mergedArena, ← h, List.length_map]

theorem getElem?_merged {i : Nat} {m : Node} (hm : arena[i]? = some m) :
    (mergedArena freq)[i]? = some (eraseDepth m) := by
  rw [← h, List.getElem?_map, hm, Option.map_some]

theorem joins {i : Nat} {m : Node} (hm : arena[i]? = some m) (hkind : m.kind = .internal) :
    JoinsLeastKeys arena i m :=
  joinsLeastKeys_of_eraseDepth <| by
    rw [h]
    exact mergedArena_joins (h.getElem?_merged hm) hkind

theorem children_perm :
    (childrenOf (internals arena)).Perm (List.range (2 * (alphabet freq).length - 1 - 1)) := by
  have hperm := mergedArena_children freq
  rwa [length_mergedArena, ← h, internals_map_eraseDepth, childrenOf_map_eraseDepth] at hperm

/-- The leaves are the seeded ones but for their depths. -/
theorem map_take : (arena.take (alphabet freq).length).map eraseDepth = seedLeaves freq := by
  obtain ⟨inner, happ, -⟩ := mergedArena_eq_append freq
  rw [List.map_take, h, happ, ← length_seedLeaves, List.take_left]

theorem leaf_of_mem_take {m : Node} (hm : m ∈ arena.take (alphabet freq).length) : m.kind = .leaf :=
  (seedLeaves_fields (freq := freq) (m := eraseDepth m) (by
    rw [← h.map_take]
    exact List.mem_map_of_mem hm)).1

theorem internal_of_mem_drop {m : Node} (hm : m ∈ arena.drop (alphabet freq).length) :
    m.kind = .internal ∧ m.sym = 0#8 := by
  obtain ⟨inner, happ, hinner⟩ := mergedArena_eq_append freq
  have hdrop : (arena.drop (alphabet freq).length).map eraseDepth = inner := by
    rw [List.map_drop, h, happ, ← length_seedLeaves, List.drop_left]
  obtain ⟨hkind, hsym, -⟩ := hinner (eraseDepth m) (hdrop ▸ List.mem_map_of_mem hm)
  exact ⟨hkind, hsym⟩

theorem map_sym_take : (arena.take (alphabet freq).length).map Node.sym = alphabet freq := by
  have hsym := congrArg (List.map Node.sym) (h.map_take.trans (seedLeaves_eq_map freq))
  rw [List.map_map, List.map_map] at hsym
  exact hsym.trans (List.map_id _)

/-- The internal nodes are those from index N on. -/
theorem internal_iff {i : Nat} {m : Node} (hm : arena[i]? = some m) :
    m.kind = .internal ↔ (alphabet freq).length ≤ i := by
  by_cases hi : i < (alphabet freq).length
  · have hleaf := h.leaf_of_mem_take (List.mem_of_getElem? (i := i) (by rw [List.getElem?_take_of_lt hi, hm]))
    simp [hleaf, hi]
  · have hmem : m ∈ arena.drop (alphabet freq).length :=
      List.mem_of_getElem? (i := i - (alphabet freq).length)
        (by rw [List.getElem?_drop, Nat.add_sub_cancel' (by omega), hm])
    exact iff_of_true (h.internal_of_mem_drop hmem).1 (by omega)

theorem internals_eq_drop : internals arena = arena.drop (alphabet freq).length := by
  have hinner : internals (arena.drop (alphabet freq).length) = arena.drop (alphabet freq).length :=
    List.filter_eq_self.2 fun m hm => decide_eq_true (h.internal_of_mem_drop hm).1
  calc internals arena
      = internals (arena.take (alphabet freq).length) ++ internals (arena.drop (alphabet freq).length) := by
        rw [← internals_append, List.take_append_drop]
    _ = arena.drop (alphabet freq).length := by
        rw [internals_of_leaves fun m hm => h.leaf_of_mem_take hm, hinner, List.nil_append]

end HasMergedTree

@[simp] theorem length_builtArena (freq : Table Word) : (builtArena freq).length = 2 * (alphabet freq).length - 1 :=
  (hasMergedTree_builtArena freq).length_eq

theorem exec_build {s t : State} (hphase : s.phase = .hist) (h : exec .build s = .next t) :
    t = succeed (buildTree s) := by
  have hbuild : exec .build s = .next (succeed (buildTree s)) := exec_of_ok (by rw [hphase]; rfl) rfl
  simpa using h.symm.trans hbuild

theorem rootOf_builtArena_toNat (freq : Table Word) :
    (rootOf (builtArena freq)).toNat = 2 * (alphabet freq).length - 1 - 1 := by
  have hle := length_alphabet_le freq
  rw [rootOf, length_builtArena, BitVec.toNat_ofNat, Nat.mod_eq_of_lt (by omega)]

end Sys2Proof.Machine

namespace Sys2Proof.Proofs

open Sys2Proof.Machine

/-- Settles O21: the arena is the merged one with depths, so its size and its entries are the merge loop's. -/
theorem buildMakesAFullArena : Obligations.BuildMakesAFullArena := by
  intro s hphase
  refine ⟨succeed (buildTree s), exec_of_ok (by rw [hphase]; rfl) rfl, rfl, length_builtArena s.freq, ?_, ?_,
    fun n hn => (hasMergedTree_builtArena s.freq).internal_of_mem_drop hn⟩
  · exact (rootOf_builtArena_toNat s.freq).trans (congrArg (· - 1) (length_builtArena s.freq).symm)
  · have hfields := congrArg (List.map fun n => (n.kind, n.w, n.sym, n.left, n.right))
      ((hasMergedTree_builtArena s.freq).map_take.trans (seedLeaves_eq_map s.freq))
    rw [List.map_map, List.map_map] at hfields
    exact hfields

/-- Settles O22: `JoinsLeastKeys` for every internal node, and the ownership the merge loop keeps. -/
theorem builtTreeOwnsEveryNodeOnce : Obligations.BuiltTreeOwnsEveryNodeOnce := by
  intro s t hphase hexec
  obtain rfl := exec_build hphase hexec
  refine ⟨fun i n hn hkind => (hasMergedTree_builtArena s.freq).joins hn hkind, ?_⟩
  have hnodes : (succeed (buildTree s)).nnodes = 2 * (alphabet s.freq).length - 1 := length_builtArena s.freq
  rw [hnodes]
  exact (hasMergedTree_builtArena s.freq).children_perm

/-- Settles O23: the root weighs the sum of the counts, which is `total` and fits its register. -/
theorem rootWeighsTheInput : Obligations.RootWeighsTheInput := by
  intro s t h hphase hexec n hn
  obtain rfl := exec_build hphase hexec
  have hlast : (builtArena s.freq)[(builtArena s.freq).length - 1]? = some n := by
    rw [← List.getLast?_eq_getElem?]
    exact hn
  have hmerged := (hasMergedTree_builtArena s.freq).getElem?_merged hlast
  rw [length_builtArena, ← length_mergedArena] at hmerged
  have hweight : n.w.toNat = freqSum s.freq % 2 ^ 32 := mergedArena_root_weight (m := eraseDepth n) hmerged
  rw [← h.total_is_sum, Nat.mod_eq_of_lt s.total.isLt] at hweight
  exact BitVec.eq_of_toNat_eq hweight

end Sys2Proof.Proofs
end

section
/-! PROOFS. Depths, code lengths and the Kraft equality (42_tree_builder.md R146 to R148, R151). -/

-- One declaration after another: this keeps the compile of the whole text within its memory.
set_option Elab.async false

namespace Sys2Proof.Machine

/-! ### Depths (42_tree_builder.md R146) -/

theorem childrenOf_eq_flatMap (arena : List Node) :
    childrenOf (internals arena) = arena.flatMap fun n => if n.kind = .internal then childrenOf [n] else [] := by
  induction arena with
  | nil => rfl
  | cons m arena ih =>
    rw [← List.singleton_append, internals_append, childrenOf_append, ih, List.flatMap_append, List.flatMap_singleton]
    congr 1
    by_cases h : m.kind = .internal <;> simp [internals, childrenOf, h]

/-- With every child listed once, two internal nodes with a common child are one. -/
theorem parent_unique {arena : List Node} (hnodup : (childrenOf (internals arena)).Nodup) {i p c : Nat} {m q : Node}
    (hm : arena[i]? = some m) (hmkind : m.kind = .internal) (hmc : c ∈ childrenOf [m])
    (hq : arena[p]? = some q) (hqkind : q.kind = .internal) (hqc : c ∈ childrenOf [q]) : i = p := by
  rw [childrenOf_eq_flatMap, List.nodup_flatMap] at hnodup
  obtain ⟨-, hdisjoint⟩ := hnodup
  rw [List.pairwise_iff_getElem] at hdisjoint
  obtain ⟨hi, rfl⟩ := List.getElem?_eq_some_iff.1 hm
  obtain ⟨hp, rfl⟩ := List.getElem?_eq_some_iff.1 hq
  rcases Nat.lt_trichotomy i p with hlt | heq | hgt
  · exact absurd (by simpa [hqkind] using hqc) (hdisjoint i p hi hp hlt (by simpa [hmkind] using hmc))
  · exact heq
  · exact absurd (by simpa [hmkind] using hmc) (hdisjoint p i hp hi hgt (by simpa [hqkind] using hqc))

theorem getElem?_depthRound {arena : List Node} {p : Nat} {m : Node} (h : arena[p]? = some m) (j : Nat) :
    (depthRound arena p)[j]? =
      if j ∈ childrenOf [m] then arena[j]?.map (fun n => { n with depth := m.depth + 1#8 }) else arena[j]? := by
  simp only [depthRound, h, getElem?_setDepth, childrenOf, List.flatMap_singleton, List.mem_cons, List.not_mem_nil,
    or_false]
  by_cases hr : m.right.toNat = j
  · by_cases hl : m.left.toNat = j
    · simp [hr, hl, Option.map_map, Function.comp_def]
    · simp [hr, hl]
  · by_cases hl : m.left.toNat = j
    · simp [hr, hl]
    · rw [if_neg hr, if_neg hl, if_neg (by omega)]

/-- What holds once the nodes from index `p` on have given their children depths: these are right, the root's is 0, and
no entry is deeper than its distance from the last one. -/
structure DepthInv (arena : List Node) (p : Nat) : Prop where
  root : ∀ m, arena[arena.length - 1]? = some m → m.depth = 0#8
  children : ∀ i m, p ≤ i → arena[i]? = some m → m.kind = .internal →
    ∀ c ∈ childrenOf [m], ∃ x, arena[c]? = some x ∧ x.depth.toNat = m.depth.toNat + 1
  bound : ∀ i m, arena[i]? = some m → m.depth.toNat + i ≤ arena.length - 1

/-- Node `p` gives its children, and no node from `p` on nor a child of a later one, their depth. -/
theorem depthInv_depthRound {arena : List Node} {p : Nat} {m : Node} (h : DepthInv arena (p + 1))
    (hm : arena[p]? = some m) (hsmall : m.depth.toNat < 255) (hchild : ∀ c ∈ childrenOf [m], c < p)
    (hother : ∀ i q, p < i → arena[i]? = some q → q.kind = .internal →
      ∀ c ∈ childrenOf [q], c ∉ childrenOf [m]) : DepthInv (depthRound arena p) p := by
  obtain ⟨hp, -⟩ := List.getElem?_eq_some_iff.1 hm
  have hd : (m.depth + 1#8).toNat = m.depth.toNat + 1 := by bv_omega
  have hkept {j : Nat} (hj : p ≤ j) : (depthRound arena p)[j]? = arena[j]? := by
    rw [getElem?_depthRound hm, if_neg fun hmem => absurd (hchild j hmem) (Nat.not_lt.2 hj)]
  exact {
    root := by
      intro x hx
      rw [length_depthRound, hkept (by omega)] at hx
      exact h.root x hx
    children := by
      intro i q hi hq hkind c hc
      rw [hkept hi] at hq
      rcases Nat.eq_or_lt_of_le hi with rfl | hlt
      · obtain rfl : m = q := by simpa [hm] using hq
        have hclt := hchild c hc
        refine ⟨{ arena[c] with depth := m.depth + 1#8 }, ?_, hd⟩
        rw [getElem?_depthRound hm, if_pos hc, List.getElem?_eq_getElem (by omega), Option.map_some]
      · rw [getElem?_depthRound hm, if_neg (hother i q hlt hq hkind c hc)]
        exact h.children i q hlt hq hkind c hc
    bound := by
      intro i q hq
      rw [length_depthRound]
      by_cases hc : i ∈ childrenOf [m]
      · rw [getElem?_depthRound hm, if_pos hc, Option.map_eq_some_iff] at hq
        obtain ⟨x, -, rfl⟩ := hq
        have hmbound := h.bound p m hm
        have hclt := hchild i hc
        change (m.depth + 1#8).toNat + i ≤ _
        omega
      · rw [getElem?_depthRound hm, if_neg hc] at hq
        exact h.bound i q hq }

namespace HasMergedTree

variable {freq : Table Word} {arena : List Node} (h : HasMergedTree freq arena)
include h

/-- A child of an internal node is a child of no other. -/
theorem child_unique {i p c : Nat} {m q : Node} (hm : arena[i]? = some m) (hmkind : m.kind = .internal)
    (hmc : c ∈ childrenOf [m]) (hq : arena[p]? = some q) (hqkind : q.kind = .internal) (hqc : c ∈ childrenOf [q]) :
    i = p :=
  parent_unique (h.children_perm.nodup_iff.2 List.nodup_range) hm hmkind hmc hq hqkind hqc

/-- A round of R146 at an internal node. Its depth is at most 254, so the depth of its children does not wrap. -/
theorem depthInv_round {p : Nat} (hinv : DepthInv arena (p + 1)) (hp : (alphabet freq).length ≤ p)
    (hlt : p < arena.length) : DepthInv (depthRound arena p) p := by
  have hlen := h.length_eq
  have hN := length_alphabet_le freq
  have hm : arena[p]? = some arena[p] := List.getElem?_eq_getElem hlt
  have hkind := (h.internal_iff hm).2 hp
  have hbound := hinv.bound p _ hm
  refine depthInv_depthRound hinv hm (by omega) (fun c hc => (h.joins hm hkind).child_lt hc) ?_
  intro i q hi hq hqkind c hqc hmc
  exact absurd (h.child_unique hq hqkind hqc hm hkind hmc) hi.ne'

end HasMergedTree

section
variable {freq : Table Word}

/-- The loop of R146 after `k` rounds, root first. -/
def depthRounds (arena : List Node) (k : Nat) : List Node :=
  (List.range' (arena.length - k) k).reverse.foldl depthRound (setDepth arena (arena.length - 1) 0#8)

theorem depthRounds_succ {arena : List Node} {k : Nat} (hk : k < arena.length) :
    depthRounds arena (k + 1) = depthRound (depthRounds arena k) (arena.length - (k + 1)) := by
  have hnext : arena.length - (k + 1) + 1 = arena.length - k := by omega
  rw [depthRounds, List.range'_succ, hnext, List.reverse_cons, List.foldl_concat]
  rfl

@[simp] theorem length_depthRounds (arena : List Node) (k : Nat) : (depthRounds arena k).length = arena.length := by
  rw [depthRounds, length_foldl_depthRound, length_setDepth]

theorem hasMergedTree_depthRounds (freq : Table Word) (k : Nat) :
    HasMergedTree freq (depthRounds (mergedArena freq) k) := by
  rw [HasMergedTree, depthRounds, map_eraseDepth_foldl_depthRound, map_eraseDepth_setDepth, map_eraseDepth_mergedArena]

/-- Before any round every depth is 0. -/
theorem depthInv_seed (freq : Table Word) :
    DepthInv (depthRounds (mergedArena freq) 0) (mergedArena freq).length := by
  have hzero (i : Nat) (m : Node) (hm : (depthRounds (mergedArena freq) 0)[i]? = some m) : m.depth = 0#8 := by
    change (setDepth (mergedArena freq) ((mergedArena freq).length - 1) 0#8)[i]? = some m at hm
    rw [getElem?_setDepth] at hm
    split at hm
    · obtain ⟨x, -, rfl⟩ := Option.map_eq_some_iff.1 hm
      rfl
    · exact mergedArena_depth (List.mem_of_getElem? hm)
  exact {
    root := fun m hm => hzero _ m hm
    children := by
      intro i m hi hm
      rw [List.getElem?_eq_none (by rwa [length_depthRounds])] at hm
      cases hm
    bound := by
      intro i m hm
      obtain ⟨hlt, -⟩ := List.getElem?_eq_some_iff.1 hm
      rw [hzero i m hm, BitVec.toNat_zero]
      omega }

/-- After `k` rounds the last `k` entries have given their children depths. -/
theorem depthInv_depthRounds (k : Nat) (hk : k + (alphabet freq).length ≤ (mergedArena freq).length) :
    DepthInv (depthRounds (mergedArena freq) k) ((mergedArena freq).length - k) := by
  induction k with
  | zero => exact depthInv_seed freq
  | succ k ih =>
    have hnext : (mergedArena freq).length - k = (mergedArena freq).length - (k + 1) + 1 := by omega
    have hinv := ih (by omega)
    rw [hnext] at hinv
    rw [depthRounds_succ (by omega)]
    exact (hasMergedTree_depthRounds freq k).depthInv_round hinv (by omega) (by rw [length_depthRounds]; omega)

theorem depthInv_builtArena (htwo : 2 ≤ (alphabet freq).length) :
    DepthInv (builtArena freq) (alphabet freq).length := by
  have hlen := length_mergedArena freq
  have hrounds := depthInv_depthRounds (freq := freq) ((mergedArena freq).length - (alphabet freq).length) (by omega)
  rw [depthRounds, Nat.sub_sub_self (by omega)] at hrounds
  rwa [builtArena, assignDepths, length_seedLeaves, if_pos htwo]

theorem builtArena_of_short (hshort : ¬ 2 ≤ (alphabet freq).length) : builtArena freq = mergedArena freq := by
  rw [builtArena, assignDepths, length_seedLeaves, if_neg hshort]

/-- With fewer than two symbols no node is internal. -/
theorem two_le_of_internal {i : Nat} {m : Node} (hm : (builtArena freq)[i]? = some m) (hkind : m.kind = .internal) :
    2 ≤ (alphabet freq).length := by
  have hi := ((hasMergedTree_builtArena freq).internal_iff hm).1 hkind
  obtain ⟨hlt, -⟩ := List.getElem?_eq_some_iff.1 hm
  rw [length_builtArena] at hlt
  omega

theorem builtArena_root_depth {m : Node} (hm : (builtArena freq)[(builtArena freq).length - 1]? = some m) :
    m.depth = 0#8 := by
  by_cases htwo : 2 ≤ (alphabet freq).length
  · exact (depthInv_builtArena htwo).root m hm
  · rw [builtArena_of_short htwo] at hm
    exact mergedArena_depth (List.mem_of_getElem? hm)

theorem builtArena_child_depth {i c : Nat} {m : Node} (hm : (builtArena freq)[i]? = some m)
    (hkind : m.kind = .internal) (hc : c ∈ childrenOf [m]) :
    ∃ x, (builtArena freq)[c]? = some x ∧ x.depth.toNat = m.depth.toNat + 1 :=
  (depthInv_builtArena (two_le_of_internal hm hkind)).children i m
    (((hasMergedTree_builtArena freq).internal_iff hm).1 hkind) hm hkind c hc

/-- An internal node is at most N - 2 deep. -/
theorem builtArena_internal_depth_le {i : Nat} {m : Node} (hm : (builtArena freq)[i]? = some m)
    (hkind : m.kind = .internal) : m.depth.toNat + 2 ≤ (alphabet freq).length := by
  have htwo := two_le_of_internal hm hkind
  have hi := ((hasMergedTree_builtArena freq).internal_iff hm).1 hkind
  have hbound := (depthInv_builtArena htwo).bound i m hm
  rw [length_builtArena] at hbound
  omega

/-- A leaf among others is 1 to N - 1 deep, one deeper than its parent (42_tree_builder.md R151 item 4). -/
theorem builtArena_leaf_depth (htwo : 2 ≤ (alphabet freq).length) {i : Nat} {m : Node}
    (hi : i < (alphabet freq).length) (hm : (builtArena freq)[i]? = some m) :
    0 < m.depth.toNat ∧ m.depth.toNat + 1 ≤ (alphabet freq).length := by
  have hchild : i ∈ childrenOf (internals (builtArena freq)) :=
    (hasMergedTree_builtArena freq).children_perm.mem_iff.2 (List.mem_range.2 (by omega))
  obtain ⟨p, q, hq, hkind, hc⟩ := mem_childrenOf_internals.1 hchild
  obtain ⟨x, hx, hdepth⟩ := builtArena_child_depth hq hkind hc
  obtain rfl : x = m := by simpa [hm] using hx.symm
  have hle := builtArena_internal_depth_le hq hkind
  omega

/-! ### Code lengths (42_tree_builder.md R147) -/

/-- Writes at other symbols leave an element as it is. -/
theorem readSym_foldl_writeSym_of_notMem (f : Node → Byte) (l : List Node) (t : Table Byte) {sym : Byte}
    (h : sym ∉ l.map Node.sym) : readSym (l.foldl (fun t n => writeSym t n.sym (f n)) t) sym = readSym t sym := by
  induction l generalizing t with
  | nil => rfl
  | cons n l ih =>
    rw [List.map_cons, List.mem_cons, not_or] at h
    rw [List.foldl_cons, ih _ h.2, readSym_writeSym_of_ne _ _ h.1]

/-- With distinct symbols each write stays. -/
theorem readSym_foldl_writeSym_of_mem (f : Node → Byte) {l : List Node} (hnodup : (l.map Node.sym).Nodup)
    (t : Table Byte) {m : Node} (hm : m ∈ l) :
    readSym (l.foldl (fun t n => writeSym t n.sym (f n)) t) m.sym = f m := by
  induction l generalizing t with
  | nil => cases hm
  | cons n l ih =>
    rw [List.map_cons, List.nodup_cons] at hnodup
    rw [List.foldl_cons]
    rcases List.mem_cons.1 hm with rfl | hm
    · rw [readSym_foldl_writeSym_of_notMem f l _ hnodup.1, readSym_writeSym_same]
    · exact ih hnodup.2 _ hm

theorem builtLengths_eq_foldl (freq : Table Word) :
    builtLengths freq = ((builtArena freq).take (alphabet freq).length).foldl
      (fun t n => writeSym t n.sym (if (alphabet freq).length = 1 then 1#8 else n.depth)) (constTable 0#8) := by
  rw [builtLengths, codeLengths, length_seedLeaves]
  by_cases hone : (alphabet freq).length = 1
  · simp only [hone, if_true]
  · simp only [hone, if_false]

theorem builtLengths_of_leaf {m : Node} (hm : m ∈ (builtArena freq).take (alphabet freq).length) :
    readSym (builtLengths freq) m.sym = if (alphabet freq).length = 1 then 1#8 else m.depth := by
  rw [builtLengths_eq_foldl]
  refine readSym_foldl_writeSym_of_mem (fun n => if (alphabet freq).length = 1 then 1#8 else n.depth) ?_ _ hm
  rw [(hasMergedTree_builtArena freq).map_sym_take]
  exact alphabet_nodup freq

theorem builtLengths_of_absent {sym : Byte} (h : readSym freq sym = 0#32) :
    readSym (builtLengths freq) sym = 0#8 := by
  rw [builtLengths_eq_foldl, readSym_foldl_writeSym_of_notMem, readSym_constTable]
  rw [(hasMergedTree_builtArena freq).map_sym_take, mem_alphabet]
  exact fun hne => hne h

theorem exists_leaf_of_symbol {sym : Byte} (h : readSym freq sym ≠ 0#32) :
    ∃ i m, i < (alphabet freq).length ∧ (builtArena freq)[i]? = some m ∧
      m ∈ (builtArena freq).take (alphabet freq).length ∧ m.sym = sym := by
  have hmem := (mem_alphabet freq sym).2 h
  rw [← (hasMergedTree_builtArena freq).map_sym_take, List.mem_map] at hmem
  obtain ⟨m, hm, hsym⟩ := hmem
  obtain ⟨i, hi⟩ := List.mem_iff_getElem?.1 hm
  obtain ⟨hlt, -⟩ := List.getElem?_eq_some_iff.1 hi
  rw [List.length_take] at hlt
  exact ⟨i, m, by omega, by rwa [List.getElem?_take_of_lt (by omega)] at hi, hm, hsym⟩

theorem mem_take_of_leaf {m : Node} (hm : m ∈ builtArena freq) (hkind : m.kind = .leaf) :
    m ∈ (builtArena freq).take (alphabet freq).length := by
  obtain ⟨i, hi⟩ := List.mem_iff_getElem?.1 hm
  have hlt : i < (alphabet freq).length := by
    by_contra hle
    have hinternal := ((hasMergedTree_builtArena freq).internal_iff hi).2 (Nat.le_of_not_lt hle)
    simp [hkind] at hinternal
  exact List.mem_of_getElem? (i := i) (by rw [List.getElem?_take_of_lt hlt, hi])

/-- Every symbol that occurs has a length, from 1 to the greater of 1 and N - 1 (42_tree_builder.md R151 item 4). -/
theorem builtLengths_bounds {sym : Byte} (h : readSym freq sym ≠ 0#32) :
    0 < (readSym (builtLengths freq) sym).toNat ∧
      (readSym (builtLengths freq) sym).toNat ≤ max 1 ((alphabet freq).length - 1) := by
  obtain ⟨i, m, hi, hm, hleaf, rfl⟩ := exists_leaf_of_symbol h
  rw [builtLengths_of_leaf hleaf]
  split
  · simp
  · obtain ⟨hpos, hle⟩ := builtArena_leaf_depth (by omega) hi hm
    omega

theorem builtLengths_ne_zero_iff {sym : Byte} : readSym (builtLengths freq) sym ≠ 0#8 ↔ readSym freq sym ≠ 0#32 := by
  constructor
  · exact fun hlen hzero => hlen (builtLengths_of_absent hzero)
  · intro hfreq hzero
    obtain ⟨hpos, -⟩ := builtLengths_bounds hfreq
    simp [hzero] at hpos

/-! ### The Kraft equality (42_tree_builder.md R151 item 5) -/

/-- 2^255 times 2^(-depth) for an entry. -/
def depthWeight (n : Node) : Nat := 2 ^ (255 - n.depth.toNat)

/-- The weight of the entry at an index, 0 where there is none. -/
def depthWeightAt (arena : List Node) (i : Nat) : Nat := (arena[i]?).elim 0 depthWeight

theorem depthWeightAt_of_some {arena : List Node} {i : Nat} {m : Node} (h : arena[i]? = some m) :
    depthWeightAt arena i = depthWeight m := by
  rw [depthWeightAt, h, Option.elim_some]

theorem map_depthWeightAt_range (arena : List Node) :
    (List.range arena.length).map (depthWeightAt arena) = arena.map depthWeight := by
  refine List.ext_getElem (by simp) fun i h1 h2 => ?_
  rw [List.getElem_map, List.getElem_map, List.getElem_range]
  exact depthWeightAt_of_some (List.getElem?_eq_getElem _)

/-- The children of a node weigh together what it weighs. -/
theorem depthWeight_children {m : Node} (hm : m ∈ internals (builtArena freq)) :
    ((childrenOf [m]).map (depthWeightAt (builtArena freq))).sum = depthWeight m := by
  obtain ⟨hmem, hkind⟩ := List.mem_filter.1 hm
  have hkind : m.kind = .internal := of_decide_eq_true hkind
  obtain ⟨i, hi⟩ := List.mem_iff_getElem?.1 hmem
  have hle := builtArena_internal_depth_le hi hkind
  have hN := length_alphabet_le freq
  obtain ⟨l, hl, hldepth⟩ := builtArena_child_depth hi hkind (c := m.left.toNat) (by simp [childrenOf])
  obtain ⟨r, hr, hrdepth⟩ := builtArena_child_depth hi hkind (c := m.right.toNat) (by simp [childrenOf])
  have hpow : 255 - m.depth.toNat = 255 - (m.depth.toNat + 1) + 1 := by omega
  simp only [childrenOf, List.flatMap_singleton, List.map_cons, List.map_nil, List.sum_cons, List.sum_nil,
    depthWeightAt_of_some hl, depthWeightAt_of_some hr, depthWeight, hldepth, hrdepth, hpow, Nat.pow_succ]
  omega

theorem sum_childrenOf {ns : List Node} {f : Nat → Nat} {g : Node → Nat}
    (h : ∀ m ∈ ns, ((childrenOf [m]).map f).sum = g m) : ((childrenOf ns).map f).sum = (ns.map g).sum := by
  induction ns with
  | nil => rfl
  | cons m ns ih =>
    rw [← List.singleton_append, childrenOf_append, List.map_append, List.sum_append, h m (by simp),
      ih fun x hx => h x (by simp [hx])]
    simp

/-- The leaves weigh what the root weighs: the entries below the root are the children of the internal nodes, which
weigh together what the internal nodes weigh, the root among them. -/
theorem sum_depthWeight_leaves (htwo : 2 ≤ (alphabet freq).length) :
    (((builtArena freq).take (alphabet freq).length).map depthWeight).sum = 2 ^ 255 := by
  have htree := hasMergedTree_builtArena freq
  have hlen := length_builtArena freq
  have hbelow : ((List.range (2 * (alphabet freq).length - 1 - 1)).map (depthWeightAt (builtArena freq))).sum =
      (((builtArena freq).drop (alphabet freq).length).map depthWeight).sum := by
    rw [← htree.internals_eq_drop, ← sum_childrenOf fun m hm => depthWeight_children hm]
    exact ((htree.children_perm.map _).sum_eq).symm
  have hroot : depthWeightAt (builtArena freq) (2 * (alphabet freq).length - 1 - 1) = 2 ^ 255 := by
    have hlast : (builtArena freq)[(builtArena freq).length - 1]? =
        some (builtArena freq)[(builtArena freq).length - 1] := List.getElem?_eq_getElem (by omega)
    rw [← hlen, depthWeightAt_of_some hlast, depthWeight, builtArena_root_depth hlast]
    rfl
  have hall := congrArg List.sum (map_depthWeightAt_range (builtArena freq))
  rw [hlen, show 2 * (alphabet freq).length - 1 = 2 * (alphabet freq).length - 1 - 1 + 1 by omega, List.range_succ,
    List.map_append, List.sum_append, hbelow, List.map_singleton, List.sum_singleton, hroot] at hall
  have hsplit : ((builtArena freq).map depthWeight).sum =
      (((builtArena freq).take (alphabet freq).length).map depthWeight).sum +
        (((builtArena freq).drop (alphabet freq).length).map depthWeight).sum := by
    rw [← List.sum_append, ← List.map_append, List.take_append_drop]
  omega

/-- The Kraft sum counts the leaves. -/
theorem kraftSum_builtLengths (freq : Table Word) :
    kraftSum (builtLengths freq) = (((builtArena freq).take (alphabet freq).length).map fun m =>
      2 ^ (255 - (readSym (builtLengths freq) m.sym).toNat)).sum := by
  have hsyms := (hasMergedTree_builtArena freq).map_sym_take
  have hfilter : alphabet freq = symbols.filter fun sym => readSym (builtLengths freq) sym != 0#8 :=
    List.filter_congr fun sym _ => by
      rw [Bool.eq_iff_iff, bne_iff_ne, bne_iff_ne]
      exact builtLengths_ne_zero_iff.symm
  have hleaves := congrArg (List.map fun sym => 2 ^ (255 - (readSym (builtLengths freq) sym).toNat)) hsyms
  rw [List.map_map] at hleaves
  refine Eq.trans ?_ (congrArg List.sum hleaves).symm
  rw [hfilter, sum_map_filter, kraftSum]
  congr 1
  refine List.map_congr_left fun sym _ => ?_
  by_cases h : readSym (builtLengths freq) sym = 0#8 <;> simp [h]

theorem kraftSum_builtLengths_of_two_le (htwo : 2 ≤ (alphabet freq).length) :
    kraftSum (builtLengths freq) = 2 ^ 255 := by
  rw [kraftSum_builtLengths, ← sum_depthWeight_leaves htwo]
  congr 1
  refine List.map_congr_left fun m hm => ?_
  rw [builtLengths_of_leaf hm, if_neg (by omega), depthWeight]

theorem kraftSum_builtLengths_of_one (hone : (alphabet freq).length = 1) :
    kraftSum (builtLengths freq) = 2 ^ 254 := by
  obtain ⟨m, hm⟩ := List.length_eq_one_iff.1
    (show ((builtArena freq).take (alphabet freq).length).length = 1 by rw [List.length_take, length_builtArena]; omega)
  have hlen := builtLengths_of_leaf (freq := freq) (m := m) (by rw [hm]; exact List.mem_singleton_self m)
  rw [if_pos hone] at hlen
  rw [kraftSum_builtLengths, hm, List.map_singleton, List.sum_singleton, hlen]
  rfl

end

end Sys2Proof.Machine

namespace Sys2Proof.Proofs

open Sys2Proof.Machine

/-- Settles O24: the depths are `DepthInv`'s, the lengths are written leaf by leaf, and `maxlen` is their maximum. -/
theorem builtLengthsAreLeafDepths : Obligations.BuiltLengthsAreLeafDepths := by
  intro s t hphase hexec
  obtain rfl := exec_build hphase hexec
  have hnodes : (succeed (buildTree s)).nnodes = 2 * (alphabet s.freq).length - 1 := length_builtArena s.freq
  have hleaf {n : Node} (hn : n ∈ builtArena s.freq) (hkind : n.kind = .leaf) :
      readSym (builtLengths s.freq) n.sym = if (succeed (buildTree s)).nnodes = 1 then 1#8 else n.depth := by
    rw [builtLengths_of_leaf (mem_take_of_leaf hn hkind), hnodes]
    exact if_congr (by omega) rfl rfl
  refine ⟨fun n hn => ?_, fun n hn hkind c hc => ?_, fun sym => builtLengths_of_absent,
    fun n hn hkind hone => (hleaf hn hkind).trans (if_pos hone),
    fun n hn hkind hmany => (hleaf hn hkind).trans (if_neg hmany), readSym_le_maxLength (builtLengths s.freq),
    exists_readSym_eq_maxLength (builtLengths s.freq)⟩
  · exact builtArena_root_depth ((List.getLast?_eq_getElem? (l := builtArena s.freq)).symm.trans hn)
  · obtain ⟨i, hi⟩ := List.mem_iff_getElem?.1 hn
    exact builtArena_child_depth hi hkind (by simpa [childrenOf] using hc)

/-- Settles O25: the bounds of a leaf's depth, and the Kraft sum over the leaves. -/
theorem builtLengthsMeetTheKraftEquality : Obligations.BuiltLengthsMeetTheKraftEquality := by
  intro s t hphase hexec
  obtain rfl := exec_build hphase hexec
  exact ⟨fun sym hsym => builtLengths_bounds hsym, kraftSum_builtLengths_of_one, kraftSum_builtLengths_of_two_le⟩

/-- Settles O58: after BUILD the arena and the lengths are those of the counts; in HIST every length is 0. -/
theorem invariantGivesTheTreeItems : Obligations.InvariantGivesTheTreeItems := by
  intro s h
  have hcount := h.nsym_counts
  by_cases hphase : s.phase = .hist
  · obtain ⟨-, -, hmax, hlen⟩ := h.hist_tree hphase
    refine ⟨fun hne => absurd hphase hne, fun hne => absurd hphase hne, fun sym => ?_, 0#8, ?_⟩
    · rw [hlen, hmax, readSym_constTable]
      exact BitVec.le_refl _
    · rw [hlen, hmax, readSym_constTable]
  · obtain ⟨hnode, -, hlen, hmax⟩ := h.tree_of_counts hphase
    rw [hmax]
    refine ⟨fun _ => ?_, fun _ sym => ?_, readSym_le_maxLength s.len, exists_readSym_eq_maxLength s.len⟩
    · rw [State.nnodes, hnode, length_builtArena, ← hcount]
      split <;> bv_omega
    · have hiff := builtLengths_ne_zero_iff (freq := s.freq) (sym := sym)
      rw [hlen]
      bv_omega

end Sys2Proof.Proofs
end

section
/-! PROOFS. The canonical assignment in closed form (43_canonical.md R161). -/

-- One declaration after another: this keeps the compile of the whole text within its memory.
set_option Elab.async false

namespace Sys2Proof.Machine

/-! ### Counting among the symbols in ascending order -/

/-- In an ascending list exactly the elements in front of one are less than it. -/
theorem countP_lt_getElem {l : List Byte} (hsorted : l.Pairwise (· < ·)) {r : Nat} (hr : r < l.length) :
    l.countP (fun x => decide (x < l[r])) = r := by
  have hsplit : l = l.take r ++ l[r] :: l.drop (r + 1) := by rw [List.getElem_cons_drop, List.take_append_drop]
  have hsorted' := hsorted
  rw [hsplit, List.pairwise_append, List.pairwise_cons] at hsorted'
  obtain ⟨-, ⟨hafter, -⟩, hbefore⟩ := hsorted'
  have htake : (l.take r).countP (fun x => decide (x < l[r])) = r := by
    rw [List.countP_eq_length.2 fun x hx => decide_eq_true (hbefore x hx l[r] List.mem_cons_self), List.length_take,
      Nat.min_eq_left hr.le]
  have hdrop : (l.drop (r + 1)).countP (fun x => decide (x < l[r])) = 0 :=
    List.countP_eq_zero.2 fun x hx => by simpa using BitVec.le_of_lt (hafter x hx)
  calc l.countP (fun x => decide (x < l[r]))
      = (l.take r ++ l[r] :: l.drop (r + 1)).countP (fun x => decide (x < l[r])) := by rw [← hsplit]
    _ = r := by
        rw [List.countP_append, List.countP_cons, htake, hdrop]
        simp

/-- How many smaller symbols have the length of `sym`: its place among the codes of that length. -/
def rank (len : Table Byte) (sym : Byte) : Nat :=
  symbols.countP fun x => decide (x < sym) && readSym len x == readSym len sym

/-- The code the canonical assignment gives a symbol with a length (43_canonical.md R161). -/
def codeValue (len : Table Byte) (sym : Byte) : Nat := firstCode len (readSym len sym).toNat + rank len sym

theorem blCount_of_pos (len : Table Byte) {l : Nat} (h : l ≠ 0) :
    blCount len l = symbols.countP fun x => (readSym len x).toNat == l := by
  rw [blCount, if_neg h, entries_eq_map, List.countP_map]
  rfl

/-- The symbols of a symbol's length. -/
theorem blCount_readSym (len : Table Byte) {sym : Byte} (h : readSym len sym ≠ 0#8) :
    blCount len (readSym len sym).toNat = symbols.countP fun x => readSym len x == readSym len sym := by
  rw [blCount_of_pos len fun hzero => h (BitVec.eq_of_toNat_eq hzero)]
  exact List.countP_congr fun x _ => by simp [BitVec.toNat_inj]

theorem firstCode_succ (len : Table Byte) (l : Nat) :
    firstCode len (l + 1) = 2 * (firstCode len l + blCount len l) := by
  rw [firstCode, Nat.shiftLeft_eq, Nat.pow_one, Nat.mul_comm]

/-- The first code of a length as a sum over the shorter lengths. -/
theorem firstCode_eq_sum (len : Table Byte) (l : Nat) :
    firstCode len l = ((List.range l).map fun j =>
      if j = 0 then 0 else (symbols.countP fun x => (readSym len x).toNat == j) * 2 ^ (l - j)).sum := by
  induction l with
  | zero => rfl
  | succ l ih =>
    have hlast : blCount len l * 2 =
        if l = 0 then 0 else (symbols.countP fun x => (readSym len x).toNat == l) * 2 ^ (l + 1 - l) := by
      by_cases hl : l = 0
      · simp [hl, blCount]
      · rw [if_neg hl, blCount_of_pos len hl, Nat.add_sub_cancel_left, Nat.pow_one]
    have hrest : ((List.range l).map fun j =>
        if j = 0 then 0 else (symbols.countP fun x => (readSym len x).toNat == j) * 2 ^ (l + 1 - j)).sum =
        firstCode len l * 2 := by
      rw [ih, ← List.sum_map_mul_right]
      congr 1
      refine List.map_congr_left fun j hj => ?_
      have hjl := List.mem_range.1 hj
      split
      · rfl
      · rw [Nat.mul_assoc, ← Nat.pow_succ, show l + 1 - j = l - j + 1 by omega]
    rw [firstCode_succ, List.range_succ, List.map_append, List.sum_append, List.map_singleton, List.sum_singleton,
      hrest, ← hlast]
    omega

/-! ### The assignment loop -/

/-- The rounds of 43_canonical.md R161 for a list of symbols. -/
def assignRounds (len : Table Byte) (l : List Byte) (st : Table DWord × List Nat) : Table DWord × List Nat :=
  (l.map fun sym => (sym, readSym len sym)).foldl assignRound st

theorem assignRounds_append (len : Table Byte) (l l' : List Byte) (st : Table DWord × List Nat) :
    assignRounds len (l ++ l') st = assignRounds len l' (assignRounds len l st) := by
  rw [assignRounds, List.map_append, List.foldl_append]
  rfl

theorem canonicalCodes_eq_assignRounds (len : Table Byte) (maxlen : Nat) :
    canonicalCodes len maxlen =
      (assignRounds len symbols (constTable 0#64, (List.range (maxlen + 1)).map (firstCode len))).1 := by
  rw [canonicalCodes, entries_eq_map]
  rfl

theorem assignRound_of_zero (st : Table DWord × List Nat) {p : Byte × Byte} (h : p.2 = 0#8) :
    assignRound st p = st := if_pos (congrArg BitVec.toNat h)

theorem assignRound_of_ne (st : Table DWord × List Nat) {p : Byte × Byte} (h : p.2 ≠ 0#8) :
    assignRound st p = (writeSym st.1 p.1 (BitVec.ofNat 64 (st.2.getD p.2.toNat 0)),
      st.2.set p.2.toNat (st.2.getD p.2.toNat 0 + 1)) := if_neg fun hzero => h (BitVec.eq_of_toNat_eq hzero)

/-- A round at another symbol, or at one without a length, leaves a code as it is. -/
theorem readSym_assignRound {st : Table DWord × List Nat} {p : Byte × Byte} {sym : Byte}
    (h : sym ≠ p.1 ∨ p.2 = 0#8) : readSym (assignRound st p).1 sym = readSym st.1 sym := by
  by_cases hzero : p.2 = 0#8
  · rw [assignRound_of_zero st hzero]
  · rw [assignRound_of_ne st hzero]
    exact readSym_writeSym_of_ne _ _ (h.resolve_right hzero)

theorem readSym_assignRounds (len : Table Byte) {l : List Byte} {st : Table DWord × List Nat} {sym : Byte}
    (h : sym ∉ l ∨ readSym len sym = 0#8) : readSym (assignRounds len l st).1 sym = readSym st.1 sym := by
  induction l generalizing st with
  | nil => rfl
  | cons x l ih =>
    have hrest : sym ∉ l ∨ readSym len sym = 0#8 := h.imp_left fun hmem hl => hmem (List.mem_cons_of_mem x hl)
    have hx : sym ≠ x ∨ readSym len x = 0#8 := by
      rcases h with hmem | hzero
      · exact .inl fun heq => hmem (heq ▸ List.mem_cons_self)
      · by_cases heq : sym = x
        · exact .inr (heq ▸ hzero)
        · exact .inl heq
    exact (ih hrest).trans (readSym_assignRound hx)

/-- A round counts one code more of its symbol's length. -/
theorem getD_assignRound {st : Table DWord × List Nat} {p : Byte × Byte} {l : Nat} (hl : l ≠ 0)
    (hlt : l < st.2.length) :
    (assignRound st p).2.length = st.2.length ∧
      (assignRound st p).2.getD l 0 = st.2.getD l 0 + if p.2.toNat == l then 1 else 0 := by
  by_cases hzero : p.2 = 0#8
  · rw [assignRound_of_zero st hzero, hzero]
    simp [hl.symm]
  · rw [assignRound_of_ne st hzero]
    refine ⟨List.length_set, ?_⟩
    by_cases heq : p.2.toNat = l
    · simp [heq, List.getD_eq_getElem?_getD, hlt]
    · simp [heq, List.getD_eq_getElem?_getD, List.getElem?_set_ne heq]

theorem getD_assignRounds (len : Table Byte) {xs : List Byte} {st : Table DWord × List Nat} {l : Nat} (hl : l ≠ 0)
    (hlt : l < st.2.length) :
    (assignRounds len xs st).2.getD l 0 = st.2.getD l 0 + xs.countP fun x => (readSym len x).toNat == l := by
  induction xs generalizing st with
  | nil => rfl
  | cons x xs ih =>
    obtain ⟨hlength, hget⟩ := getD_assignRound (p := (x, readSym len x)) hl hlt
    have hrest := ih (st := assignRound st (x, readSym len x)) (hlength ▸ hlt)
    rw [hget] at hrest
    rw [List.countP_cons]
    exact hrest.trans ((Nat.add_assoc _ _ _).trans (congrArg _ (Nat.add_comm _ _)))

/-- The canonical codes in closed form, by the symbol's place among the symbols. -/
theorem readSym_canonicalCodes {len : Table Byte} {maxlen : Nat} {sym : Byte}
    (hle : (readSym len sym).toNat ≤ maxlen) :
    readSym (canonicalCodes len maxlen) sym =
      if readSym len sym = 0#8 then 0#64 else BitVec.ofNat 64 (codeValue len sym) := by
  rw [canonicalCodes_eq_assignRounds]
  by_cases hzero : readSym len sym = 0#8
  · rw [readSym_assignRounds len (.inr hzero), readSym_constTable, if_pos hzero]
  · have hpos : (readSym len sym).toNat ≠ 0 := fun h => hzero (BitVec.eq_of_toNat_eq h)
    obtain ⟨pre, post, hsplit⟩ := List.append_of_mem (mem_symbols sym)
    have hsorted := symbols_pairwise_lt
    rw [hsplit, List.pairwise_append, List.pairwise_cons] at hsorted
    obtain ⟨-, ⟨hafter, -⟩, hbefore⟩ := hsorted
    have hpost : sym ∉ post := fun hmem => (BitVec.lt_irrefl sym) (hafter sym hmem)
    have hrank : pre.countP (fun x => (readSym len x).toNat == (readSym len sym).toNat) = rank len sym := by
      have hpre : pre.countP (fun x => decide (x < sym) && readSym len x == readSym len sym) =
          pre.countP fun x => (readSym len x).toNat == (readSym len sym).toNat :=
        List.countP_congr fun x hx => by
          simp [hbefore x hx sym List.mem_cons_self, BitVec.toNat_inj]
      have hzeroPost : post.countP (fun x => decide (x < sym) && readSym len x == readSym len sym) = 0 :=
        List.countP_eq_zero.2 fun x hx => by simp [BitVec.not_lt.2 (BitVec.le_of_lt (hafter x hx))]
      rw [rank, hsplit, List.countP_append, List.countP_cons, hpre, hzeroPost]
      simp
    have hnext := getD_assignRounds len (xs := pre)
      (st := (constTable 0#64, (List.range (maxlen + 1)).map (firstCode len))) hpos
      (by simpa using Nat.lt_succ_of_le hle)
    rw [hrank] at hnext
    have hfirst : ((List.range (maxlen + 1)).map (firstCode len)).getD (readSym len sym).toNat 0 =
        firstCode len (readSym len sym).toNat := by
      simp [List.getD_eq_getElem?_getD, Nat.lt_succ_of_le hle]
    rw [hsplit, assignRounds_append, if_neg hzero]
    refine (readSym_assignRounds (l := post) len (.inl hpost)).trans ?_
    rw [assignRound_of_ne _ hzero, readSym_writeSym_same, hnext, hfirst, codeValue]

end Sys2Proof.Machine

namespace Sys2Proof.Proofs

open Sys2Proof.Machine

/-- Settles O27: the loop's closed form (`readSym_canonicalCodes`) with its first codes as sums. -/
theorem canonAssignsTheCanonicalCodes : Obligations.CanonAssignsTheCanonicalCodes := by
  intro s hphase hwidth hlen
  have hnarrow : ¬ codeWidth < s.maxlen.toNat := Nat.not_lt.2 hwidth
  refine ⟨_, exec_of_ok (i := .canon) (by rw [hphase]; rfl) (if_neg hnarrow), rfl, fun sym => ?_⟩
  rw [← firstCode_eq_sum]
  exact readSym_canonicalCodes (hlen sym)

end Sys2Proof.Proofs
end

section
/-! PROOFS. No canonical code begins another, they are consecutive and complete, and a stream of them is read in one
way only (43_canonical.md R164, 44_lookup_encode.md R179). -/

-- One declaration after another: this keeps the compile of the whole text within its memory.
set_option Elab.async false

namespace Sys2Proof.Machine

/-! ### Places among the symbols of one length -/

section
variable {len : Table Byte}

theorem countP_symbols_cons (p : Byte → Bool) (x : Byte) :
    symbols.countP p = (symbols.erase x).countP p + if p x then 1 else 0 := by
  rw [(symbols_perm_cons x).countP_eq, List.countP_cons]

theorem rank_lt_blCount {sym : Byte} (h : readSym len sym ≠ 0#8) :
    rank len sym < blCount len (readSym len sym).toNat := by
  have hle : (symbols.erase sym).countP (fun x => decide (x < sym) && readSym len x == readSym len sym) ≤
      (symbols.erase sym).countP fun x => readSym len x == readSym len sym :=
    List.countP_mono_left fun x _ hx => (Bool.and_eq_true_iff.1 hx).2
  rw [rank, blCount_readSym len h, countP_symbols_cons _ sym, countP_symbols_cons _ sym]
  simpa [BitVec.lt_irrefl] using hle

/-- Of two symbols of one length the greater has the higher place, the next one if none lies between. -/
theorem rank_lt_rank {x y : Byte} (hxy : x < y) (hlen : readSym len x = readSym len y) :
    rank len x < rank len y := by
  have hle : (symbols.erase x).countP (fun z => decide (z < x) && readSym len z == readSym len x) ≤
      (symbols.erase x).countP fun z => decide (z < y) && readSym len z == readSym len y :=
    List.countP_mono_left fun z _ hz => by
      simp only [Bool.and_eq_true, decide_eq_true_eq, beq_iff_eq] at hz ⊢
      exact ⟨BitVec.lt_trans hz.1 hxy, hz.2.trans hlen⟩
  rw [rank, rank, countP_symbols_cons _ x, countP_symbols_cons _ x]
  simpa [BitVec.lt_irrefl, hxy, hlen] using Nat.lt_succ_of_le hle

theorem rank_eq_succ {x y : Byte} (hxy : x < y) (hlen : readSym len x = readSym len y)
    (hnone : ∀ z, x < z → z < y → readSym len z ≠ readSym len x) : rank len y = rank len x + 1 := by
  have heq : (symbols.erase x).countP (fun z => decide (z < y) && readSym len z == readSym len y) =
      (symbols.erase x).countP fun z => decide (z < x) && readSym len z == readSym len x :=
    List.countP_congr fun z hz => by
      have hne := ne_of_mem_symbols_erase hz
      simp only [Bool.and_eq_true, decide_eq_true_eq, beq_iff_eq, ← hlen]
      constructor
      · rintro ⟨hzy, hzlen⟩
        refine ⟨?_, hzlen⟩
        by_contra hle
        exact hnone z (by bv_omega) hzy hzlen
      · rintro ⟨hzx, hzlen⟩
        exact ⟨BitVec.lt_trans hzx hxy, hzlen⟩
  rw [rank, rank, countP_symbols_cons _ x, countP_symbols_cons _ x, heq]
  simp [BitVec.lt_irrefl, hxy, hlen]

/-- Every place below the number of symbols of a length is some symbol's. -/
theorem exists_symbol_of_rank {l r : Nat} (hl : l ≠ 0) (hr : r < blCount len l) :
    ∃ sym, (readSym len sym).toNat = l ∧ rank len sym = r := by
  rw [blCount_of_pos len hl, List.countP_eq_length_filter] at hr
  have hmem := List.getElem_mem hr
  have hlen := (List.mem_filter.1 hmem).2
  have hrank := countP_lt_getElem (symbols_pairwise_lt.filter fun x => (readSym len x).toNat == l) hr
  generalize (symbols.filter fun x => (readSym len x).toNat == l)[r] = sym at hmem hlen hrank
  have hsym : (readSym len sym).toNat = l := by simpa using hlen
  refine ⟨sym, hsym, ?_⟩
  rw [List.countP_filter] at hrank
  rw [← hrank, rank]
  exact List.countP_congr fun x _ => by simp [← hsym, BitVec.toNat_inj]

/-! ### The end of the codes of a length -/

/-- The first number past the codes of length `l`. -/
def codeEnd (len : Table Byte) (l : Nat) : Nat := firstCode len l + blCount len l

theorem firstCode_succ_eq_codeEnd (l : Nat) : firstCode len (l + 1) = 2 * codeEnd len l := firstCode_succ len l

theorem codeValue_lt_codeEnd {sym : Byte} (h : readSym len sym ≠ 0#8) :
    codeValue len sym < codeEnd len (readSym len sym).toNat :=
  Nat.add_lt_add_left (rank_lt_blCount h) _

/-- The codes of a greater length begin past the codes of a lesser one. -/
theorem codeEnd_mul_le_firstCode (l k : Nat) : codeEnd len l * 2 ^ (k + 1) ≤ firstCode len (l + (k + 1)) := by
  induction k with
  | zero =>
    rw [Nat.zero_add, Nat.pow_one, firstCode_succ_eq_codeEnd, Nat.mul_comm]
  | succ k ih =>
    rw [← Nat.add_assoc, firstCode_succ_eq_codeEnd, Nat.pow_succ, ← Nat.mul_assoc, Nat.mul_comm]
    exact Nat.mul_le_mul_left 2 (ih.trans (Nat.le_add_right _ _))

/-- The part of the Kraft sum up to a length. -/
def kraftUpTo (len : Table Byte) (l : Nat) : Nat :=
  (symbols.map fun sym => if readSym len sym ≠ 0#8 ∧ (readSym len sym).toNat ≤ l then
    2 ^ (255 - (readSym len sym).toNat) else 0).sum

theorem kraftUpTo_zero : kraftUpTo len 0 = 0 := by
  refine List.sum_eq_zero fun n hn => ?_
  obtain ⟨sym, -, rfl⟩ := List.mem_map.1 hn
  exact if_neg fun h => h.1 (BitVec.eq_of_toNat_eq (Nat.le_zero.1 h.2))

theorem countP_mul_eq_sum (l : List Byte) (p : Byte → Bool) (c : Nat) :
    l.countP p * c = (l.map fun x => if p x then c else 0).sum := by
  rw [← sum_map_filter, List.map_const', List.sum_replicate, List.countP_eq_length_filter, smul_eq_mul]

theorem kraftUpTo_succ (l : Nat) :
    kraftUpTo len (l + 1) = kraftUpTo len l + blCount len (l + 1) * 2 ^ (255 - (l + 1)) := by
  rw [kraftUpTo, kraftUpTo, blCount_of_pos len (Nat.succ_ne_zero l), countP_mul_eq_sum, ← List.sum_map_add]
  congr 1
  refine List.map_congr_left fun sym _ => ?_
  by_cases hzero : readSym len sym = 0#8
  · simp [hzero]
  · rcases Nat.lt_trichotomy (readSym len sym).toNat (l + 1) with hlt | heq | hgt
    · simp [hzero, Nat.le_of_lt hlt, Nat.le_of_lt_succ hlt, hlt.ne]
    · simp [hzero, heq]
    · simp [hzero, Nat.not_le.2 hgt, Nat.not_le.2 (Nat.lt_of_succ_lt hgt), hgt.ne']

/-- The codes up to a length take up their part of the Kraft sum. -/
theorem codeEnd_mul_eq_kraftUpTo {l : Nat} (hl : l ≤ 255) : codeEnd len l * 2 ^ (255 - l) = kraftUpTo len l := by
  induction l with
  | zero =>
    rw [kraftUpTo_zero]
    exact Nat.zero_mul _
  | succ l ih =>
    obtain ⟨d, hd, hd'⟩ : ∃ d, 255 - (l + 1) = d ∧ 255 - l = d + 1 := ⟨_, rfl, by omega⟩
    have ih := ih (by omega)
    rw [hd', Nat.pow_succ] at ih
    rw [kraftUpTo_succ, hd, ← ih, codeEnd, firstCode_succ_eq_codeEnd]
    ring

theorem kraftUpTo_le (l : Nat) : kraftUpTo len l ≤ kraftSum len := by
  refine List.sum_le_sum fun sym _ => ?_
  by_cases hzero : readSym len sym = 0#8
  · simp [hzero]
  · by_cases hle : (readSym len sym).toNat ≤ l
    · simp only [hzero, hle, ne_eq, not_false_eq_true, and_self, if_true, if_false, le_refl]
    · simp [hle]

theorem kraftUpTo_of_le {l : Nat} (h : ∀ sym, (readSym len sym).toNat ≤ l) : kraftUpTo len l = kraftSum len := by
  rw [kraftUpTo, kraftSum]
  congr 1
  refine List.map_congr_left fun sym _ => ?_
  by_cases hzero : readSym len sym = 0#8
  · simp [hzero]
  · simp [hzero, h sym]

/-- The codes of a length fit it when the Kraft sum is at most 1, and leave none out when it is 1. -/
theorem codeEnd_le {l : Nat} (hl : l ≤ 255) (hkraft : kraftSum len ≤ 2 ^ 255) : codeEnd len l ≤ 2 ^ l := by
  have hpow : 2 ^ 255 = 2 ^ l * 2 ^ (255 - l) := by rw [← Nat.pow_add, Nat.add_sub_cancel' hl]
  have hle := (codeEnd_mul_eq_kraftUpTo (len := len) hl).le.trans ((kraftUpTo_le l).trans hkraft)
  rw [hpow] at hle
  exact Nat.le_of_mul_le_mul_right hle (Nat.two_pow_pos _)

theorem codeEnd_eq {l : Nat} (hl : l ≤ 255) (hkraft : kraftSum len = 2 ^ 255)
    (hmax : ∀ sym, (readSym len sym).toNat ≤ l) : codeEnd len l = 2 ^ l := by
  have hpow : 2 ^ 255 = 2 ^ l * 2 ^ (255 - l) := by rw [← Nat.pow_add, Nat.add_sub_cancel' hl]
  have heq := (codeEnd_mul_eq_kraftUpTo (len := len) hl).trans ((kraftUpTo_of_le hmax).trans hkraft)
  rw [hpow] at heq
  exact Nat.eq_of_mul_eq_mul_right (Nat.two_pow_pos _) heq

/-! ### Bit strings and their prefixes -/

theorem bitsOf_inj {v w n : Nat} (h : bitsOf v n = bitsOf w n) : v % 2 ^ n = w % 2 ^ n := by
  refine Nat.eq_of_testBit_eq fun i => ?_
  rw [Nat.testBit_mod_two_pow, Nat.testBit_mod_two_pow]
  by_cases hi : i < n
  · have hget := congrArg (fun l => l[n - 1 - i]?) h
    simp only [bitsOf, List.getElem?_map, List.getElem?_range (show n - 1 - i < n by omega), Option.map_some,
      Option.some.injEq, show n - 1 - (n - 1 - i) = i by omega] at hget
    rw [hget]
  · simp [hi]

/-- One bit string begins another exactly as its value is the other's high bits. -/
theorem value_of_bitsOf_prefix {v w m n : Nat} (h : bitsOf v m <+: bitsOf w n) (hv : v < 2 ^ m) (hw : w < 2 ^ n) :
    m ≤ n ∧ v = w / 2 ^ (n - m) := by
  have hmn : m ≤ n := by simpa using h.length_le
  refine ⟨hmn, ?_⟩
  have hsplit := bitsOf_append w m (n - m)
  rw [Nat.add_sub_cancel' hmn] at hsplit
  rw [hsplit] at h
  have heq : bitsOf v m = bitsOf (w / 2 ^ (n - m)) m :=
    (List.prefix_of_prefix_length_le h (List.prefix_append _ _) (by simp)).eq_of_length (by simp)
  have hmod := bitsOf_inj heq
  have hquot : w / 2 ^ (n - m) < 2 ^ m := by
    rw [Nat.div_lt_iff_lt_mul (Nat.two_pow_pos _), ← Nat.pow_add, Nat.add_sub_cancel' hmn]
    exact hw
  rwa [Nat.mod_eq_of_lt hv, Nat.mod_eq_of_lt hquot] at hmod

theorem bitsOf_div_prefix (v : Nat) {l n : Nat} (h : l ≤ n) : bitsOf (v / 2 ^ (n - l)) l <+: bitsOf v n := by
  have hsplit := bitsOf_append v l (n - l)
  rw [Nat.add_sub_cancel' h] at hsplit
  rw [hsplit]
  exact List.prefix_append _ _

/-- Every bit string is the bits of a number. -/
theorem exists_eq_bitsOf (bits : List Bool) : ∃ v, v < 2 ^ bits.length ∧ bits = bitsOf v bits.length := by
  induction bits with
  | nil => exact ⟨0, by decide, rfl⟩
  | cons b bits ih =>
    obtain ⟨v, hv, hbits⟩ := ih
    have hpos := Nat.two_pow_pos bits.length
    have hquot : (b.toNat * 2 ^ bits.length + v) / 2 ^ bits.length = b.toNat := by
      rw [Nat.mul_comm, Nat.mul_add_div hpos, Nat.div_eq_of_lt hv, Nat.add_zero]
    have hrest : bitsOf (b.toNat * 2 ^ bits.length + v) bits.length = bits := by
      rw [← bitsOf_mod, Nat.mul_comm, Nat.mul_add_mod, bitsOf_mod, ← hbits]
    have hhead : bitsOf b.toNat 1 = [b] := by cases b <;> rfl
    refine ⟨b.toNat * 2 ^ bits.length + v, ?_, ?_⟩
    · have hb := Nat.mul_le_mul_right (2 ^ bits.length) (Bool.toNat_le b)
      rw [List.length_cons, Nat.pow_succ]
      omega
    · rw [List.length_cons, Nat.add_comm bits.length, bitsOf_append, hquot, hrest, hhead]
      rfl

/-! ### No value begins another, and none is left out -/

theorem codeValue_lt_two_pow {sym : Byte} (hkraft : kraftSum len ≤ 2 ^ 255) (h : readSym len sym ≠ 0#8) :
    codeValue len sym < 2 ^ (readSym len sym).toNat :=
  Nat.lt_of_lt_of_le (codeValue_lt_codeEnd h) (codeEnd_le (Nat.le_of_lt_succ (readSym len sym).isLt) hkraft)

theorem codeValue_ne_of_ne {x y : Byte} (hne : x ≠ y) (hlen : readSym len x = readSym len y) :
    codeValue len x ≠ codeValue len y := by
  have hrank : rank len x ≠ rank len y := by
    rcases Nat.lt_or_gt_of_ne fun heq => hne (BitVec.eq_of_toNat_eq heq) with hlt | hgt
    · exact (rank_lt_rank (BitVec.lt_def.2 hlt) hlen).ne
    · exact (rank_lt_rank (BitVec.lt_def.2 hgt) hlen.symm).ne'
  rw [codeValue, codeValue, hlen]
  omega

/-- A code's high bits, as many as a shorter code has, are past every code of that shorter length. -/
theorem codeValue_lt_div {x y : Byte} (hx : readSym len x ≠ 0#8)
    (hlt : (readSym len x).toNat < (readSym len y).toNat) :
    codeValue len x < codeValue len y / 2 ^ ((readSym len y).toNat - (readSym len x).toNat) := by
  obtain ⟨k, hk⟩ := Nat.exists_eq_add_of_lt hlt
  have hnext := codeEnd_mul_le_firstCode (len := len) (readSym len x).toNat k
  rw [← Nat.add_assoc, ← hk] at hnext
  rw [show (readSym len y).toNat - (readSym len x).toNat = k + 1 by omega]
  refine Nat.lt_of_lt_of_le (codeValue_lt_codeEnd hx) ?_
  rw [Nat.le_div_iff_mul_le (Nat.two_pow_pos _)]
  exact hnext.trans (Nat.le_add_right _ _)

theorem not_bitsOf_codeValue_prefix {x y : Byte} (hkraft : kraftSum len ≤ 2 ^ 255) (hne : x ≠ y)
    (hx : readSym len x ≠ 0#8) (hy : readSym len y ≠ 0#8) :
    ¬ bitsOf (codeValue len x) (readSym len x).toNat <+: bitsOf (codeValue len y) (readSym len y).toNat := by
  intro hprefix
  obtain ⟨hle, hvalue⟩ := value_of_bitsOf_prefix hprefix (codeValue_lt_two_pow hkraft hx)
    (codeValue_lt_two_pow hkraft hy)
  rcases Nat.eq_or_lt_of_le hle with heq | hlt
  · rw [heq, Nat.sub_self, Nat.pow_zero, Nat.div_one] at hvalue
    exact codeValue_ne_of_ne hne (BitVec.eq_of_toNat_eq heq) hvalue
  · exact (codeValue_lt_div hx hlt).ne hvalue

/-- Reading a number of `M` bits from the front: some code is met, or the bits read so far are past the codes of their
length. -/
theorem code_met_or_codeEnd_le {M v : Nat} (l : Nat) (hl : l ≤ M) :
    (∃ sym, readSym len sym ≠ 0#8 ∧ (readSym len sym).toNat ≤ M ∧
      codeValue len sym = v / 2 ^ (M - (readSym len sym).toNat)) ∨ codeEnd len l ≤ v / 2 ^ (M - l) := by
  induction l with
  | zero => exact .inr (Nat.zero_le _)
  | succ l ih =>
    rcases ih (by omega) with hmet | hpast
    · exact .inl hmet
    · have hfirst : firstCode len (l + 1) ≤ v / 2 ^ (M - (l + 1)) := by
        rw [show M - l = M - (l + 1) + 1 by omega, Nat.pow_succ, ← Nat.div_div_eq_div_mul] at hpast
        rw [firstCode_succ_eq_codeEnd]
        omega
      by_cases hend : codeEnd len (l + 1) ≤ v / 2 ^ (M - (l + 1))
      · exact .inr hend
      · obtain ⟨sym, hlen, hrank⟩ := exists_symbol_of_rank (len := len) (Nat.succ_ne_zero l)
          (Nat.sub_lt_left_of_lt_add hfirst (Nat.lt_of_not_le hend))
        refine .inl ⟨sym, fun hzero => ?_, by omega, ?_⟩
        · rw [hzero] at hlen
          simp at hlen
        · rw [codeValue, hlen, hrank, Nat.add_sub_of_le hfirst]

theorem code_met {M v : Nat} (hend : codeEnd len M = 2 ^ M) (hv : v < 2 ^ M) :
    ∃ sym, readSym len sym ≠ 0#8 ∧ (readSym len sym).toNat ≤ M ∧
      codeValue len sym = v / 2 ^ (M - (readSym len sym).toNat) := by
  rcases code_met_or_codeEnd_le (len := len) (v := v) M (Nat.le_refl M) with hmet | hpast
  · exact hmet
  · rw [Nat.sub_self, Nat.pow_zero, Nat.div_one] at hpast
    omega

/-- Every bit string and some code are one the beginning of the other: the string is long enough to meet a code, or is
made so by more bits. -/
theorem exists_code_or_prefix {M : Nat} (hend : codeEnd len M = 2 ^ M) (bits : List Bool) :
    ∃ sym, readSym len sym ≠ 0#8 ∧
      (bits <+: bitsOf (codeValue len sym) (readSym len sym).toNat ∨
        bitsOf (codeValue len sym) (readSym len sym).toNat <+: bits) := by
  have hlength : ((bits ++ List.replicate M false).take M).length = M := by simp
  obtain ⟨v, hv, hbits⟩ := exists_eq_bitsOf ((bits ++ List.replicate M false).take M)
  rw [hlength] at hv hbits
  obtain ⟨sym, hsym, hle, hvalue⟩ := code_met hend hv
  refine ⟨sym, hsym, ?_⟩
  have hcode : bitsOf (codeValue len sym) (readSym len sym).toNat <+: bits ++ List.replicate M false := by
    rw [hvalue]
    refine (bitsOf_div_prefix v hle).trans ?_
    rw [← hbits]
    exact List.take_prefix _ _
  exact List.prefix_or_prefix_of_prefix (List.prefix_append _ _) hcode

/-- The last symbol in the order of length and symbol has the last code of the greatest length. -/
theorem exists_lastOfP {M : Nat} (hM : M ≠ 0) (hmax : ∀ sym, (readSym len sym).toNat ≤ M)
    (hreached : ∃ sym, (readSym len sym).toNat = M) :
    ∃ sym, LastOfP len sym ∧ (readSym len sym).toNat = M ∧ codeValue len sym + 1 = codeEnd len M := by
  obtain ⟨longest, hlongest⟩ := hreached
  have hne {sym : Byte} (h : (readSym len sym).toNat = M) : readSym len sym ≠ 0#8 := fun hzero => by
    rw [hzero] at h
    exact hM h.symm
  have hpos := rank_lt_blCount (hne hlongest)
  rw [hlongest] at hpos
  obtain ⟨sym, hlen, hrank⟩ := exists_symbol_of_rank (len := len) hM (r := blCount len M - 1) (by omega)
  refine ⟨sym, ⟨hne hlen, fun other hother => ?_⟩, hlen, ?_⟩
  · rcases Nat.lt_or_eq_of_le (hmax other) with hlt | heq
    · exact .inl (BitVec.lt_def.2 (hlen.symm ▸ hlt))
    · have hsame : readSym len other = readSym len sym := BitVec.eq_of_toNat_eq (heq.trans hlen.symm)
      refine .inr ⟨hsame, ?_⟩
      by_contra hgreater
      have hhigher := rank_lt_rank (BitVec.not_le.1 hgreater) hsame.symm
      have hbound := rank_lt_blCount hother
      rw [heq] at hbound
      omega
  · rw [codeValue, codeEnd, hlen, hrank]
    omega

end

/-! ### The codes of a state that meets the invariant -/

theorem kraftSum_builtLengths_le (freq : Table Word) : kraftSum (builtLengths freq) ≤ 2 ^ 255 := by
  rcases Nat.lt_or_ge (alphabet freq).length 2 with hlt | htwo
  · rcases Nat.eq_zero_or_pos (alphabet freq).length with hzero | hpos
    · rw [kraftSum_builtLengths, hzero]
      exact Nat.zero_le _
    · rw [kraftSum_builtLengths_of_one (by omega)]
      exact Nat.pow_le_pow_right (by decide) (by decide)
  · exact (kraftSum_builtLengths_of_two_le htwo).le

theorem phase_ne_hist {s : State} (hphase : s.phase = .codes ∨ s.phase = .done) : s.phase ≠ .hist := by
  rcases hphase with hp | hp <;> rw [hp] <;> decide

section
variable {s : State} (h : Inv s) (hphase : s.phase = .codes ∨ s.phase = .done)
include h hphase

theorem inv_kraftSum_le : kraftSum s.len ≤ 2 ^ 255 := by
  obtain ⟨-, -, hlen, -⟩ := h.tree_of_counts (phase_ne_hist hphase)
  rw [hlen]
  exact kraftSum_builtLengths_le s.freq

theorem inv_kraftSum_eq (htwo : 2 ≤ s.nsym.toNat) : kraftSum s.len = 2 ^ 255 := by
  obtain ⟨-, -, hlen, -⟩ := h.tree_of_counts (phase_ne_hist hphase)
  rw [hlen]
  exact kraftSum_builtLengths_of_two_le (h.nsym_counts ▸ htwo)

theorem inv_len_le_maxlen (sym : Byte) : (readSym s.len sym).toNat ≤ s.maxlen.toNat := by
  obtain ⟨-, -, -, hmax⟩ := h.tree_of_counts (phase_ne_hist hphase)
  rw [hmax]
  exact readSym_le_maxLength s.len sym

theorem inv_code_of_no_length {sym : Byte} (hzero : readSym s.len sym = 0#8) : readSym s.code sym = 0#64 := by
  obtain ⟨-, hcode⟩ := h.codes_of_lengths hphase
  rw [hcode, readSym_canonicalCodes (inv_len_le_maxlen h hphase sym), if_pos hzero]

/-- No code is cut: a code of at most 64 bits fits its register. -/
theorem inv_code_toNat {sym : Byte} (hlen : readSym s.len sym ≠ 0#8) :
    (readSym s.code sym).toNat = codeValue s.len sym := by
  obtain ⟨-, hcode⟩ := h.codes_of_lengths hphase
  have hfits := codeValue_lt_two_pow (inv_kraftSum_le h hphase) hlen
  have hpow := Nat.pow_le_pow_right (n := 2) (by decide) (len_le_codeWidth h hphase sym)
  rw [hcode, readSym_canonicalCodes (inv_len_le_maxlen h hphase sym), if_neg hlen, BitVec.toNat_ofNat,
    Nat.mod_eq_of_lt (Nat.lt_of_lt_of_le hfits hpow)]

theorem inv_symbolBits {sym : Byte} (hlen : readSym s.len sym ≠ 0#8) :
    symbolBits s.len s.code sym = bitsOf (codeValue s.len sym) (readSym s.len sym).toNat := by
  rw [symbolBits, codeBits_eq_bitsOf, inv_code_toNat h hphase hlen]

theorem inv_prefixFree : PrefixFree s.len s.code := by
  intro x y hne hx hy
  rw [inv_symbolBits h hphase hx, inv_symbolBits h hphase hy]
  exact not_bitsOf_codeValue_prefix (inv_kraftSum_le h hphase) hne hx hy

/-- With two symbols or more the codes of the greatest length end where its bit strings do. -/
theorem inv_codeEnd_maxlen (htwo : 2 ≤ s.nsym.toNat) : codeEnd s.len s.maxlen.toNat = 2 ^ s.maxlen.toNat :=
  codeEnd_eq (Nat.le_of_lt_succ s.maxlen.isLt) (inv_kraftSum_eq h hphase htwo) (inv_len_le_maxlen h hphase)

end

/-- A stream of as many codes, none of which begins another, can be read in one way only, code by code. -/
theorem eq_of_flatMap_symbolBits {len : Table Byte} {code : Table DWord} (hfree : PrefixFree len code)
    {xs ys : List Byte} {pad pad' : List Bool} (hxs : ∀ x ∈ xs, readSym len x ≠ 0#8)
    (hys : ∀ y ∈ ys, readSym len y ≠ 0#8) (hcount : xs.length = ys.length)
    (hbits : xs.flatMap (symbolBits len code) ++ pad = ys.flatMap (symbolBits len code) ++ pad') : xs = ys := by
  induction xs generalizing ys with
  | nil => exact (List.eq_nil_of_length_eq_zero hcount.symm).symm
  | cons x xs ih =>
    cases ys with
    | nil => cases hcount
    | cons y ys =>
      rw [List.flatMap_cons, List.flatMap_cons, List.append_assoc, List.append_assoc] at hbits
      have hx := hxs x List.mem_cons_self
      have hy := hys y List.mem_cons_self
      obtain rfl : x = y := by
        by_contra hne
        have hy_prefix := List.prefix_append (symbolBits len code y) (ys.flatMap (symbolBits len code) ++ pad')
        rw [← hbits] at hy_prefix
        rcases List.prefix_or_prefix_of_prefix (List.prefix_append _ _) hy_prefix with hxy | hyx
        · exact hfree x y hne hx hy hxy
        · exact hfree y x (Ne.symm hne) hy hx hyx
      rw [ih (fun z hz => hxs z (List.mem_cons_of_mem x hz)) (fun z hz => hys z (List.mem_cons_of_mem x hz))
        (Nat.succ.inj hcount) (List.append_cancel_left hbits)]

end Sys2Proof.Machine

namespace Sys2Proof.Proofs

open Sys2Proof.Machine

/-- Settles O29: the codes are the canonical values, which fit because the Kraft sum is at most 1. -/
theorem canonicalCodesArePrefixFree : Obligations.CanonicalCodesArePrefixFree := by
  intro s h hphase
  refine ⟨fun sym => ?_, inv_prefixFree h hphase⟩
  by_cases hzero : readSym s.len sym = 0#8
  · rw [inv_code_of_no_length h hphase hzero]
    exact Nat.two_pow_pos _
  · rw [inv_code_toNat h hphase hzero]
    exact codeValue_lt_two_pow (inv_kraftSum_le h hphase) hzero

/-- Settles O30: neighbours of one length have neighbouring places, and the Kraft equality leaves no bit string out. -/
theorem canonicalCodesAreConsecutiveAndComplete : Obligations.CanonicalCodesAreConsecutiveAndComplete := by
  intro s h hphase
  refine ⟨fun x y hxy hlen hx hnone => ?_, fun htwo => ⟨?_, fun bits => ?_⟩⟩
  · rw [inv_code_toNat h hphase hx, inv_code_toNat h hphase (hlen ▸ hx), codeValue, codeValue, hlen,
      rank_eq_succ hxy hlen hnone, Nat.add_assoc]
  · have hend := inv_codeEnd_maxlen h hphase htwo
    have hpos : s.maxlen.toNat ≠ 0 := fun hzero => by
      rw [hzero] at hend
      exact absurd (show 0 = 1 from hend) (by decide)
    obtain ⟨-, -, -, hmax⟩ := h.tree_of_counts (phase_ne_hist hphase)
    obtain ⟨longest, hlongest⟩ := exists_readSym_eq_maxLength s.len
    obtain ⟨sym, hlast, hlen, hvalue⟩ := exists_lastOfP hpos (inv_len_le_maxlen h hphase)
      ⟨longest, by rw [hlongest, hmax]⟩
    refine ⟨sym, hlast, BitVec.eq_of_toNat_eq hlen, ?_⟩
    rw [inv_code_toNat h hphase hlast.1]
    omega
  · obtain ⟨sym, hsym, hprefix⟩ := exists_code_or_prefix (inv_codeEnd_maxlen h hphase htwo) bits
    refine ⟨sym, hsym, ?_⟩
    rw [inv_symbolBits h hphase hsym]
    exact hprefix

/-- Settles O31: no code begins another, so the first code of the stream is one symbol's, and so on. -/
theorem encodedSymbolsAreRecoverable : Obligations.EncodedSymbolsAreRecoverable :=
  fun _ _ _ _ _ h hphase hxs hys hcount hbits =>
    eq_of_flatMap_symbolBits (inv_prefixFree h hphase) hxs hys hcount hbits

end Sys2Proof.Proofs
end
